-- ==== Sys2Proof/Word.lean ====
section
/-! DEFINITION. The word types of the machine: the widths that spec/00_scope.md rule R6 fixes. -/

namespace Sys2Proof

/-- A 16-bit data word: a data memory word, an I/O word, a data register, the DMD bus (R6, R81). -/
abbrev Word := BitVec 16

/-- A 24-bit program memory word: an instruction or a PM data word (R2, R80). -/
abbrev PmWord := BitVec 24

/-- A 14-bit address of PM or DM; also the width of PC, CNTR, I, M and L (R6, R26, R80, R81). -/
abbrev Addr := BitVec 14

/-- An 11-bit I/O space address (R82). -/
abbrev IoAddr := BitVec 11

/-- The 40-bit multiplier accumulator MR = MR2:MR1:MR0 (R22). -/
abbrev Acc := BitVec 40

/-- The number (0 to 7) of an I, M or L register: 0 to 3 belong to DAG1, 4 to 7 to DAG2 (R26). -/
abbrev DagIdx := Fin 8

end Sys2Proof
end

