-- ==== Sys2Proof/Syntax.lean ====
section
/-! DEFINITION. The instruction set as syntax: the operand choices of the code tables (30_encoding.md R143 to R158)
as named types, and `Instr`, with one constructor for each row of spec/opcode_table.json. Fields stand in the order
of the row's bits, from bit 23 down; a field the instruction ignores (R162) is kept, so that no bit is lost. -/

namespace Sys2Proof

/-- The ALU X operand registers (R146, ALU column). -/
inductive AluXop where
  | ax0 | ax1 | ar | mr0 | mr1 | mr2 | sr0 | sr1
  deriving DecidableEq, Repr

/-- The MAC X operand registers (R146, MAC column). -/
inductive MacXop where
  | mx0 | mx1 | ar | mr0 | mr1 | mr2 | sr0 | sr1
  deriving DecidableEq, Repr

/-- The shifter input registers (R146, shifter column; the code 001 is unused). -/
inductive ShiftXop where
  | si | ar | mr0 | mr1 | mr2 | sr0 | sr1
  deriving DecidableEq, Repr

/-- The ALU Y operands (R147); `zero` is the value zero. -/
inductive AluYop where
  | ay0 | ay1 | af | zero
  deriving DecidableEq, Repr

/-- The MAC Y operands (R147); `zero` is the value zero. -/
inductive MacYop where
  | my0 | my1 | mf | zero
  deriving DecidableEq, Repr

/-- The Y operands DIVS permits (R135, R147, R196). -/
inductive DivsYop where
  | ay1 | af
  deriving DecidableEq, Repr

/-- The Z bit (R148): the result register (AR or MR) or the feedback register (AF or MF). -/
inductive Dest where
  | result | feedback
  deriving DecidableEq, Repr

/-- The sixteen data registers of the DREG table (R28, R149). -/
inductive DReg where
  | ax0 | ax1 | mx0 | mx1 | ay0 | ay1 | my0 | my1 | si | se | ar | mr0 | mr1 | mr2 | sr0 | sr1
  deriving DecidableEq, Repr

/-- The registers an RGP and REG pair can name (R29, R150). -/
inductive Reg where
  | dreg (d : DReg)
  | i (n : DagIdx)
  | m (n : DagIdx)
  | l (n : DagIdx)
  | astat | mstat | sstat | imask | icntl | cntr | sb | px
  | rx0 | tx0 | rx1 | tx1
  | ifc
  | owrcntr
  deriving DecidableEq, Repr

/-- The conditions of the COND field (R47, R151). -/
inductive Cond where
  | eq | ne | gt | le | lt | ge | av | notAv | ac | notAc | neg | pos | mv | notMv | notCe | always
  deriving DecidableEq, Repr

/-- The termination conditions of the TERM field (R47, R145). -/
inductive Term where
  | ne | eq | le | gt | ge | lt | notAv | av | notAc | ac | pos | neg | notMv | mv | ce | forever
  deriving DecidableEq, Repr

/-- The ALU functions, AMF 10000 to 11111 in order (R143). -/
inductive AluFn where
  | passY | incY | addC | add | notY | negY | subXYBorrow | subXY | decY | subYX | subYXBorrow | notX
  | andXY | orXY | xorXY | absX
  deriving DecidableEq, Repr

/-- What a MAC function does with the product (R230). -/
inductive MacOp where
  | mul | add | sub
  deriving DecidableEq, Repr

/-- The operand formats of the multiplier (R230); `rnd` is signed by signed with rounding. -/
inductive MacFmt where
  | rnd | ss | su | us | uu
  deriving DecidableEq, Repr

/-- The MAC functions, AMF 00001 to 01111 (R143, R230). -/
structure MacFn where
  op : MacOp
  fmt : MacFmt
  deriving DecidableEq, Repr

/-- The half of the 32-bit output field a shift is referenced to (R260). -/
inductive HiLo where
  | hi | lo
  deriving DecidableEq, Repr

/-- The shifter functions SF (R144); `withOr` is the SR OR option. -/
inductive ShiftFn where
  | lshift (ref : HiLo) (withOr : Bool)
  | ashift (ref : HiLo) (withOr : Bool)
  | norm (ref : HiLo) (withOr : Bool)
  | expHi | expHix | expLo | expadj
  deriving DecidableEq, Repr

/-- The computation clause of the ALU and MAC multifunction forms (R403). -/
inductive AluMac where
  | alu (f : AluFn) (y : AluYop) (x : AluXop)
  | mac (f : MacFn) (y : MacYop) (x : MacXop)
  deriving DecidableEq, Repr

/-- DD, the destination of the data memory read of type 1 (R153). -/
inductive DmDest where
  | ax0 | ax1 | mx0 | mx1
  deriving DecidableEq, Repr

/-- PD, the destination of the program memory read of type 1 (R153). -/
inductive PmDest where
  | ay0 | ay1 | my0 | my1
  deriving DecidableEq, Repr

/-- The G bit: which data address generator the I and M fields select from (R154). -/
inductive DagSel where
  | dag1 | dag2
  deriving DecidableEq, Repr

/-- FO, what a flag-out instruction does to one pin (R155). -/
inductive PinOp where
  | keep | toggle | reset | set
  deriving DecidableEq, Repr

/-- A mode-control field (R156); the codes 00 and 01 both mean no change. -/
inductive ModeOp where
  | keep | keepAlt | dis | ena
  deriving DecidableEq, Repr

/-- Spp, the status stack field of stack control (R157); the codes 00 and 01 both mean no change. -/
inductive StsOp where
  | keep | keepAlt | push | pop
  deriving DecidableEq, Repr

/-- DV, the clock divisor of slow idle (R158). -/
inductive SlowDiv where
  | n16 | n32 | n64 | n128
  deriving DecidableEq, Repr

/-- The instructions: one constructor for each row of spec/opcode_table.json, in the table's order. -/
inductive Instr where
  /-- `[IF cond] AR|AF = PASS yop`: type 9, register form (R188). -/
  | aluPassY (z : Dest) (y : AluYop) (x : AluXop) (c : Cond)
  /-- `[IF cond] AR|AF = yop + 1 (INCREMENT)`: type 9, register form (R194). -/
  | aluIncY (z : Dest) (y : AluYop) (x : AluXop) (c : Cond)
  /-- `[IF cond] AR|AF = xop + yop + C (ADD with CARRY)`: type 9, register form (R176). -/
  | aluAddC (z : Dest) (y : AluYop) (x : AluXop) (c : Cond)
  /-- `[IF cond] AR|AF = xop + yop (ADD)`: type 9, register form (R175). -/
  | aluAdd (z : Dest) (y : AluYop) (x : AluXop) (c : Cond)
  /-- `[IF cond] AR|AF = NOT yop`: type 9, register form (R192). -/
  | aluNotY (z : Dest) (y : AluYop) (x : AluXop) (c : Cond)
  /-- `[IF cond] AR|AF = -yop (NEGATE)`: type 9, register form (R191). -/
  | aluNegY (z : Dest) (y : AluYop) (x : AluXop) (c : Cond)
  /-- `[IF cond] AR|AF = xop - yop + C - 1 (SUBTRACT X-Y with BORROW)`: type 9, register form (R178). -/
  | aluSubXYBorrow (z : Dest) (y : AluYop) (x : AluXop) (c : Cond)
  /-- `[IF cond] AR|AF = xop - yop (SUBTRACT X-Y)`: type 9, register form (R177). -/
  | aluSubXY (z : Dest) (y : AluYop) (x : AluXop) (c : Cond)
  /-- `[IF cond] AR|AF = yop - 1 (DECREMENT)`: type 9, register form (R195). -/
  | aluDecY (z : Dest) (y : AluYop) (x : AluXop) (c : Cond)
  /-- `[IF cond] AR|AF = yop - xop (SUBTRACT Y-X)`: type 9, register form (R179). -/
  | aluSubYX (z : Dest) (y : AluYop) (x : AluXop) (c : Cond)
  /-- `[IF cond] AR|AF = yop - xop + C - 1 (SUBTRACT Y-X with BORROW)`: type 9, register form (R180). -/
  | aluSubYXBorrow (z : Dest) (y : AluYop) (x : AluXop) (c : Cond)
  /-- `[IF cond] AR|AF = NOT xop`: type 9, register form (R192). -/
  | aluNotX (z : Dest) (y : AluYop) (x : AluXop) (c : Cond)
  /-- `[IF cond] AR|AF = xop AND yop`: type 9, register form (R181). -/
  | aluAnd (z : Dest) (y : AluYop) (x : AluXop) (c : Cond)
  /-- `[IF cond] AR|AF = xop OR yop`: type 9, register form (R182). -/
  | aluOr (z : Dest) (y : AluYop) (x : AluXop) (c : Cond)
  /-- `[IF cond] AR|AF = xop XOR yop`: type 9, register form (R183). -/
  | aluXor (z : Dest) (y : AluYop) (x : AluXop) (c : Cond)
  /-- `[IF cond] AR|AF = ABS xop`: type 9, register form (R193). -/
  | aluAbs (z : Dest) (y : AluYop) (x : AluXop) (c : Cond)
  /-- `[IF cond] AR|AF = xop + constant`: type 9, constant form (R175). -/
  | aluAddK (z : Dest) (n : BitVec 4) (inv : Bool) (x : AluXop) (c : Cond)
  /-- `[IF cond] AR|AF = xop + constant + C`: type 9, constant form (R176). -/
  | aluAddKC (z : Dest) (n : BitVec 4) (inv : Bool) (x : AluXop) (c : Cond)
  /-- `[IF cond] AR|AF = xop - constant`: type 9, constant form (R177). -/
  | aluSubXK (z : Dest) (n : BitVec 4) (inv : Bool) (x : AluXop) (c : Cond)
  /-- `[IF cond] AR|AF = xop - constant + C - 1`: type 9, constant form (R178). -/
  | aluSubXKBorrow (z : Dest) (n : BitVec 4) (inv : Bool) (x : AluXop) (c : Cond)
  /-- `[IF cond] AR|AF = -xop + constant`: type 9, constant form (R179). -/
  | aluSubKX (z : Dest) (n : BitVec 4) (inv : Bool) (x : AluXop) (c : Cond)
  /-- `[IF cond] AR|AF = -xop + constant + C - 1`: type 9, constant form (R180). -/
  | aluSubKXBorrow (z : Dest) (n : BitVec 4) (inv : Bool) (x : AluXop) (c : Cond)
  /-- `[IF cond] AR|AF = PASS constant`: type 9, constant form (R190). -/
  | aluPassK (z : Dest) (n : BitVec 4) (inv : Bool) (x : AluXop) (c : Cond)
  /-- `[IF cond] AR|AF = PASS constant + 1`: type 9, constant form (R190). -/
  | aluPassKInc (z : Dest) (n : BitVec 4) (inv : Bool) (x : AluXop) (c : Cond)
  /-- `[IF cond] AR|AF = PASS constant - 1`: type 9, constant form (R190). -/
  | aluPassKDec (z : Dest) (n : BitVec 4) (inv : Bool) (x : AluXop) (c : Cond)
  /-- `[IF cond] AR|AF = TSTBIT n OF xop (= xop AND 1<<n)`: type 9, constant form (R184). -/
  | aluTstbit (z : Dest) (n : BitVec 4) (x : AluXop) (c : Cond)
  /-- `[IF cond] AR|AF = CLRBIT n OF xop (= xop AND ~(1<<n))`: type 9, constant form (R186). -/
  | aluClrbit (z : Dest) (n : BitVec 4) (x : AluXop) (c : Cond)
  /-- `[IF cond] AR|AF = SETBIT n OF xop (= xop OR 1<<n)`: type 9, constant form (R185). -/
  | aluSetbit (z : Dest) (n : BitVec 4) (x : AluXop) (c : Cond)
  /-- `[IF cond] AR|AF = xop OR constant, constant = ~(1<<n)`: type 9, constant form (R182). -/
  | aluOrNotBit (z : Dest) (n : BitVec 4) (x : AluXop) (c : Cond)
  /-- `[IF cond] AR|AF = TGLBIT n OF xop (= xop XOR 1<<n)`: type 9, constant form (R187). -/
  | aluTglbit (z : Dest) (n : BitVec 4) (x : AluXop) (c : Cond)
  /-- `[IF cond] AR|AF = xop XOR constant, constant = ~(1<<n)`: type 9, constant form (R183). -/
  | aluXorNotBit (z : Dest) (n : BitVec 4) (x : AluXop) (c : Cond)
  /-- `[IF cond] AR|AF = NOT constant (no assembler syntax)`: type 9, constant form (R174). -/
  | aluNotK (z : Dest) (n : BitVec 4) (inv : Bool) (x : AluXop) (c : Cond)
  /-- `[IF cond] AR|AF = -constant (no assembler syntax)`: type 9, constant form (R174). -/
  | aluNegK (z : Dest) (n : BitVec 4) (inv : Bool) (x : AluXop) (c : Cond)
  /-- `[IF cond] AR|AF = NOT xop (constant ignored) (no assembler syntax)`: type 9, constant form (R174). -/
  | aluNotXK (z : Dest) (n : BitVec 4) (inv : Bool) (x : AluXop) (c : Cond)
  /-- `[IF cond] AR|AF = ABS xop (constant ignored) (no assembler syntax)`: type 9, constant form (R174). -/
  | aluAbsK (z : Dest) (n : BitVec 4) (inv : Bool) (x : AluXop) (c : Cond)
  /-- `DIVS yop, xop`: type 24 (R196). -/
  | divs (y : DivsYop) (x : AluXop)
  /-- `DIVQ xop`: type 23 (R197). -/
  | divq (x : AluXop)
  /-- `NONE = <ALU>`: type 8 (special case) (R198). -/
  | noneAlu (f : AluFn) (y : AluYop) (x : AluXop)
  /-- `[IF cond] MR|MF = xop * yop (RND)`: type 9, register form (R235). -/
  | macMulRnd (z : Dest) (y : MacYop) (x : MacXop) (c : Cond)
  /-- `[IF cond] MR|MF = xop * yop (SS)`: type 9, register form (R235). -/
  | macMulSs (z : Dest) (y : MacYop) (x : MacXop) (c : Cond)
  /-- `[IF cond] MR|MF = xop * yop (SU)`: type 9, register form (R235). -/
  | macMulSu (z : Dest) (y : MacYop) (x : MacXop) (c : Cond)
  /-- `[IF cond] MR|MF = xop * yop (US)`: type 9, register form (R235). -/
  | macMulUs (z : Dest) (y : MacYop) (x : MacXop) (c : Cond)
  /-- `[IF cond] MR|MF = xop * yop (UU)`: type 9, register form (R235). -/
  | macMulUu (z : Dest) (y : MacYop) (x : MacXop) (c : Cond)
  /-- `[IF cond] MR|MF = MR + xop * yop (RND)`: type 9, register form (R236). -/
  | macAddRnd (z : Dest) (y : MacYop) (x : MacXop) (c : Cond)
  /-- `[IF cond] MR|MF = MR + xop * yop (SS)`: type 9, register form (R236). -/
  | macAddSs (z : Dest) (y : MacYop) (x : MacXop) (c : Cond)
  /-- `[IF cond] MR|MF = MR + xop * yop (SU)`: type 9, register form (R236). -/
  | macAddSu (z : Dest) (y : MacYop) (x : MacXop) (c : Cond)
  /-- `[IF cond] MR|MF = MR + xop * yop (US)`: type 9, register form (R236). -/
  | macAddUs (z : Dest) (y : MacYop) (x : MacXop) (c : Cond)
  /-- `[IF cond] MR|MF = MR + xop * yop (UU)`: type 9, register form (R236). -/
  | macAddUu (z : Dest) (y : MacYop) (x : MacXop) (c : Cond)
  /-- `[IF cond] MR|MF = MR - xop * yop (RND)`: type 9, register form (R237). -/
  | macSubRnd (z : Dest) (y : MacYop) (x : MacXop) (c : Cond)
  /-- `[IF cond] MR|MF = MR - xop * yop (SS)`: type 9, register form (R237). -/
  | macSubSs (z : Dest) (y : MacYop) (x : MacXop) (c : Cond)
  /-- `[IF cond] MR|MF = MR - xop * yop (SU)`: type 9, register form (R237). -/
  | macSubSu (z : Dest) (y : MacYop) (x : MacXop) (c : Cond)
  /-- `[IF cond] MR|MF = MR - xop * yop (US)`: type 9, register form (R237). -/
  | macSubUs (z : Dest) (y : MacYop) (x : MacXop) (c : Cond)
  /-- `[IF cond] MR|MF = MR - xop * yop (UU)`: type 9, register form (R237). -/
  | macSubUu (z : Dest) (y : MacYop) (x : MacXop) (c : Cond)
  /-- `[IF cond] MR|MF = xop * xop (RND)`: type 9, squaring form (R235). -/
  | macSqrMulRnd (z : Dest) (x : MacXop) (c : Cond)
  /-- `[IF cond] MR|MF = xop * xop (SS)`: type 9, squaring form (R235). -/
  | macSqrMulSs (z : Dest) (x : MacXop) (c : Cond)
  /-- `[IF cond] MR|MF = xop * xop (UU)`: type 9, squaring form (R235). -/
  | macSqrMulUu (z : Dest) (x : MacXop) (c : Cond)
  /-- `[IF cond] MR|MF = MR + xop * xop (RND)`: type 9, squaring form (R236). -/
  | macSqrAddRnd (z : Dest) (x : MacXop) (c : Cond)
  /-- `[IF cond] MR|MF = MR + xop * xop (SS)`: type 9, squaring form (R236). -/
  | macSqrAddSs (z : Dest) (x : MacXop) (c : Cond)
  /-- `[IF cond] MR|MF = MR + xop * xop (UU)`: type 9, squaring form (R236). -/
  | macSqrAddUu (z : Dest) (x : MacXop) (c : Cond)
  /-- `[IF cond] MR|MF = MR - xop * xop (RND)`: type 9, squaring form (R237). -/
  | macSqrSubRnd (z : Dest) (x : MacXop) (c : Cond)
  /-- `[IF cond] MR|MF = MR - xop * xop (SS)`: type 9, squaring form (R237). -/
  | macSqrSubSs (z : Dest) (x : MacXop) (c : Cond)
  /-- `[IF cond] MR|MF = MR - xop * xop (UU)`: type 9, squaring form (R237). -/
  | macSqrSubUu (z : Dest) (x : MacXop) (c : Cond)
  /-- `IF MV SAT MR`: type 25 (R240). -/
  | satMr
  /-- `[IF cond] SR = LSHIFT xop (HI)`: type 16 (R266). -/
  | lshiftHi (x : ShiftXop) (c : Cond)
  /-- `[IF cond] SR = SR OR LSHIFT xop (HI)`: type 16 (R266). -/
  | lshiftHiOr (x : ShiftXop) (c : Cond)
  /-- `[IF cond] SR = LSHIFT xop (LO)`: type 16 (R266). -/
  | lshiftLo (x : ShiftXop) (c : Cond)
  /-- `[IF cond] SR = SR OR LSHIFT xop (LO)`: type 16 (R266). -/
  | lshiftLoOr (x : ShiftXop) (c : Cond)
  /-- `[IF cond] SR = ASHIFT xop (HI)`: type 16 (R265). -/
  | ashiftHi (x : ShiftXop) (c : Cond)
  /-- `[IF cond] SR = SR OR ASHIFT xop (HI)`: type 16 (R265). -/
  | ashiftHiOr (x : ShiftXop) (c : Cond)
  /-- `[IF cond] SR = ASHIFT xop (LO)`: type 16 (R265). -/
  | ashiftLo (x : ShiftXop) (c : Cond)
  /-- `[IF cond] SR = SR OR ASHIFT xop (LO)`: type 16 (R265). -/
  | ashiftLoOr (x : ShiftXop) (c : Cond)
  /-- `[IF cond] SR = NORM xop (HI)`: type 16 (R267). -/
  | normHi (x : ShiftXop) (c : Cond)
  /-- `[IF cond] SR = SR OR NORM xop (HI)`: type 16 (R267). -/
  | normHiOr (x : ShiftXop) (c : Cond)
  /-- `[IF cond] SR = NORM xop (LO)`: type 16 (R267). -/
  | normLo (x : ShiftXop) (c : Cond)
  /-- `[IF cond] SR = SR OR NORM xop (LO)`: type 16 (R267). -/
  | normLoOr (x : ShiftXop) (c : Cond)
  /-- `[IF cond] SE = EXP xop (HI)`: type 16 (R268). -/
  | expHi (x : ShiftXop) (c : Cond)
  /-- `[IF cond] SE = EXP xop (HIX)`: type 16 (R268). -/
  | expHix (x : ShiftXop) (c : Cond)
  /-- `[IF cond] SE = EXP xop (LO)`: type 16 (R268). -/
  | expLo (x : ShiftXop) (c : Cond)
  /-- `[IF cond] SB = EXPADJ xop`: type 16 (R269). -/
  | expadj (x : ShiftXop) (c : Cond)
  /-- `SR = LSHIFT xop BY <exp> (HI)`: type 15 (R271). -/
  | lshiftImmHi (x : ShiftXop) (e : BitVec 8)
  /-- `SR = SR OR LSHIFT xop BY <exp> (HI)`: type 15 (R271). -/
  | lshiftImmHiOr (x : ShiftXop) (e : BitVec 8)
  /-- `SR = LSHIFT xop BY <exp> (LO)`: type 15 (R271). -/
  | lshiftImmLo (x : ShiftXop) (e : BitVec 8)
  /-- `SR = SR OR LSHIFT xop BY <exp> (LO)`: type 15 (R271). -/
  | lshiftImmLoOr (x : ShiftXop) (e : BitVec 8)
  /-- `SR = ASHIFT xop BY <exp> (HI)`: type 15 (R270). -/
  | ashiftImmHi (x : ShiftXop) (e : BitVec 8)
  /-- `SR = SR OR ASHIFT xop BY <exp> (HI)`: type 15 (R270). -/
  | ashiftImmHiOr (x : ShiftXop) (e : BitVec 8)
  /-- `SR = ASHIFT xop BY <exp> (LO)`: type 15 (R270). -/
  | ashiftImmLo (x : ShiftXop) (e : BitVec 8)
  /-- `SR = SR OR ASHIFT xop BY <exp> (LO)`: type 15 (R270). -/
  | ashiftImmLoOr (x : ShiftXop) (e : BitVec 8)
  /-- `reg = TOPPCSTACK`: type 17 (special form) (R374). -/
  | moveFromTop (d : Reg)
  /-- `TOPPCSTACK = reg`: type 17 (special form) (R375). -/
  | moveToTop (r : Reg)
  /-- `reg = reg`: type 17 (R290). -/
  | moveReg (d : Reg) (r : Reg)
  /-- `dreg = <data>`: type 6 (R291). -/
  | loadDreg (v : Word) (d : DReg)
  /-- `reg = <data> (non-data register)`: type 7 (R292). -/
  | loadReg (v : BitVec 14) (d : Reg)
  /-- `reg = DM(<addr>)`: type 3, D = 0 (R293). -/
  | readDm (a : Addr) (d : Reg)
  /-- `DM(<addr>) = reg`: type 3, D = 1 (R296). -/
  | writeDm (a : Addr) (r : Reg)
  /-- `dreg = DM(Ia, Mb)`: type 4, D = 0, no computation (R294). -/
  | readDmInd (g : DagSel) (d : DReg) (i : BitVec 2) (m : BitVec 2)
  /-- `DM(Ia, Mb) = dreg`: type 4, D = 1, no computation (R297). -/
  | writeDmInd (g : DagSel) (r : DReg) (i : BitVec 2) (m : BitVec 2)
  /-- `DM(Ia, Mb) = <data>`: type 2 (R298). -/
  | writeDmImm (g : DagSel) (v : Word) (i : BitVec 2) (m : BitVec 2)
  /-- `dreg = PM(Ia, Mb)`: type 5, D = 0, no computation (R295). -/
  | readPmInd (d : DReg) (i : BitVec 2) (m : BitVec 2)
  /-- `PM(Ia, Mb) = dreg`: type 5, D = 1, no computation (R299). -/
  | writePmInd (r : DReg) (i : BitVec 2) (m : BitVec 2)
  /-- `dreg = IO(<addr>)`: type 29, D = 0 (R301). -/
  | readIo (a : IoAddr) (d : DReg)
  /-- `IO(<addr>) = dreg`: type 29, D = 1 (R300). -/
  | writeIo (a : IoAddr) (r : DReg)
  /-- `[IF cond] JUMP <addr>`: type 10, S = 0 (R331). -/
  | jump (a : Addr) (c : Cond)
  /-- `[IF cond] CALL <addr>`: type 10, S = 1 (R333). -/
  | call (a : Addr) (c : Cond)
  /-- `[IF cond] JUMP (I4|I5|I6|I7)`: type 19, S = 0 (R330). -/
  | jumpInd (i : BitVec 2) (c : Cond)
  /-- `[IF cond] CALL (I4|I5|I6|I7)`: type 19, S = 1 (R332). -/
  | callInd (i : BitVec 2) (c : Cond)
  /-- `IF [NOT] FLAG_IN JUMP <addr>`: type 27, S = 0 (R334). -/
  | jumpFlag (a : Addr) (fic : Bool)
  /-- `IF [NOT] FLAG_IN CALL <addr>`: type 27, S = 1 (R334). -/
  | callFlag (a : Addr) (fic : Bool)
  /-- `[IF cond] SET|RESET|TOGGLE FLAG_OUT|FL0|FL1|FL2 [, ...]`: type 28 (R345). -/
  | flagOut (fl2 : PinOp) (fl1 : PinOp) (fl0 : PinOp) (fo : PinOp) (c : Cond)
  /-- `[IF cond] RTS`: type 20, T = 0 (R340). -/
  | rts (c : Cond)
  /-- `[IF cond] RTI`: type 20, T = 1 (R341). -/
  | rti (c : Cond)
  /-- `DO <addr> [UNTIL term]`: type 11 (R350). -/
  | doUntil (a : Addr) (t : Term)
  /-- `IDLE`: type 31 (R360). -/
  | idle
  /-- `IDLE (n)`: type 31, slow idle (R361). -/
  | idleN (n : SlowDiv)
  /-- `[PUSH STS | POP STS] [, POP CNTR] [, POP PC] [, POP LOOP]`: type 26 (R370). -/
  | stackControl (pp : Bool) (lp : Bool) (cp : Bool) (sp : StsOp)
  /-- `ENA INTS`: type 26 (special word) (R390). -/
  | enaInts
  /-- `DIS INTS`: type 26 (special word) (R391). -/
  | disInts
  /-- `ENA|DIS mode [, ...]`: type 18 (R380). -/
  | modeControl (ti : ModeOp) (mm : ModeOp) (sat : ModeOp) (ol : ModeOp) (br : ModeOp) (sr : ModeOp) (gm : ModeOp)
  /-- `MODIFY (Ia, Mb)`: type 21 (R385). -/
  | modify (g : DagSel) (i : BitVec 2) (m : BitVec 2)
  /-- `NOP`: type 30 (R388). -/
  | nop
  /-- `<ALU>|<MAC>, dreg = DM(Ia, Mb)`: type 4, D = 0 (R405). -/
  | compReadDm (g : DagSel) (z : Dest) (op : AluMac) (d : DReg) (i : BitVec 2) (m : BitVec 2)
  /-- `<ALU>|<MAC>, dreg = PM(Ia, Mb)`: type 5, D = 0 (R406). -/
  | compReadPm (z : Dest) (op : AluMac) (d : DReg) (i : BitVec 2) (m : BitVec 2)
  /-- `<SHIFT>, dreg = DM(Ia, Mb)`: type 12, D = 0 (R407). -/
  | shiftReadDm (g : DagSel) (f : ShiftFn) (x : ShiftXop) (d : DReg) (i : BitVec 2) (m : BitVec 2)
  /-- `<SHIFT>, dreg = PM(Ia, Mb)`: type 13, D = 0 (R408). -/
  | shiftReadPm (f : ShiftFn) (x : ShiftXop) (d : DReg) (i : BitVec 2) (m : BitVec 2)
  /-- `<ALU>|<MAC>, dreg = dreg`: type 8 (R409). -/
  | compMove (z : Dest) (op : Option AluMac) (d : DReg) (r : DReg)
  /-- `<SHIFT>, dreg = dreg`: type 14 (R410). -/
  | shiftMove (f : ShiftFn) (x : ShiftXop) (d : DReg) (r : DReg)
  /-- `DM(Ia, Mb) = dreg, <ALU>|<MAC>`: type 4, D = 1 (R411). -/
  | compWriteDm (g : DagSel) (z : Dest) (op : AluMac) (r : DReg) (i : BitVec 2) (m : BitVec 2)
  /-- `PM(Ia, Mb) = dreg, <ALU>|<MAC>`: type 5, D = 1 (R412). -/
  | compWritePm (z : Dest) (op : AluMac) (r : DReg) (i : BitVec 2) (m : BitVec 2)
  /-- `DM(Ia, Mb) = dreg, <SHIFT>`: type 12, D = 1 (R413). -/
  | shiftWriteDm (g : DagSel) (f : ShiftFn) (x : ShiftXop) (r : DReg) (i : BitVec 2) (m : BitVec 2)
  /-- `PM(Ia, Mb) = dreg, <SHIFT>`: type 13, D = 1 (R414). -/
  | shiftWritePm (f : ShiftFn) (x : ShiftXop) (r : DReg) (i : BitVec 2) (m : BitVec 2)
  /-- `AX0|AX1|MX0|MX1 = DM(Ia, Mb), AY0|AY1|MY0|MY1 = PM(Ic, Md)`: type 1, AMF = 00000 (R415). -/
  | dualRead (pd : PmDest) (dd : DmDest) (pi : BitVec 2) (pm : BitVec 2) (di : BitVec 2) (dm : BitVec 2)
  /-- `<ALU>|<MAC>, AX0|AX1|MX0|MX1 = DM(Ia, Mb), AY0|AY1|MY0|MY1 = PM(Ic, Md)`: type 1 (R416). -/
  | compDualRead (pd : PmDest) (dd : DmDest) (op : AluMac) (pi : BitVec 2) (pm : BitVec 2) (di : BitVec 2) (dm : BitVec 2)
  /-- `(unused)`: leading byte 0x08 (R133). -/
  | unused (u : BitVec 16)
  deriving DecidableEq, Repr

end Sys2Proof
end

