-- ==== Sys2Proof/Config.lean ====
section
/-! DEFINITION. What the spec leaves to the implementation (00_scope.md R4 and R6): the family member with its
four option predicates, the memory maps, the interrupt table, the code tables and the other OPEN parameters, gathered
in the plain record `Config` that the machine's state carries unchanged; and the free values: opaque constants with no
body, one for each kind of value the spec calls undefined (`undefined(n)`, 93_implementation_defined.md) or takes from
the environment (60_exceptions.md R445, R453). -/

namespace Sys2Proof

/-- The family members the spec names (R1). -/
inductive Member where
  | adsp2101 | adsp2105 | adsp2115 | adsp2111 | adsp217x | adsp218x | adsp21msp5x
  deriving DecidableEq, Repr

/-- R4: the members with the extended instructions (constant operands, squaring, NONE, ENA/DIS INTS, biased rounding). -/
def Member.hasExt : Member → Bool
  | .adsp217x | .adsp218x | .adsp21msp5x => true
  | .adsp2101 | .adsp2105 | .adsp2115 | .adsp2111 => false

/-- R4: the members with the I/O space instructions (type 29). -/
def Member.hasIO : Member → Bool
  | .adsp218x => true
  | .adsp2101 | .adsp2105 | .adsp2115 | .adsp2111 | .adsp217x | .adsp21msp5x => false

/-- R4: the members with the flag output pins FL0, FL1 and FL2; every member has FO. -/
def Member.hasFL : Member → Bool
  | .adsp2111 | .adsp217x | .adsp218x | .adsp21msp5x => true
  | .adsp2101 | .adsp2105 | .adsp2115 => false

/-- R4: the members with the powerdown interrupt. DEDUCED: the spec says only that it is mentioned where `hasExt`
holds; powerdown itself is out of scope (00_scope.md section 3), so nothing reads this predicate (log 21). -/
def Member.hasPowerdown (m : Member) : Bool := m.hasExt

/-- The kind of a populated address range (R87). -/
inductive RegionKind where
  | ram | rom | device
  deriving DecidableEq, Repr

/-- One populated address range of a space: `size` words from word address `base` (R87). -/
structure Region where
  base : Nat
  size : Nat
  kind : RegionKind
  deriving DecidableEq, Repr

/-- Whether an interrupt source is edge or level sensitive, or says so in a bit of ICNTL (1 = edge) (R441, R444). -/
inductive Sensitivity where
  | edge | level | icntlBit (k : Nat)
  deriving DecidableEq, Repr

/-- One record of `INT_TABLE` (R444). `timer` marks the timer's source, whose request is possible only while
MSTAT.TIMER is 1 (R445, R452). -/
structure IntSource where
  name : String
  vector : Addr
  maskBit : Nat
  sensitivity : Sensitivity
  forceBit : Option Nat
  clearBit : Option Nat
  timer : Bool
  deriving DecidableEq, Repr

/-- What `entryMask` (R444) answers for one source: a tree of tests on bits of IMASK and ICNTL. A leaf keeps the IMASK
bits of `keep` and sets those of `set`. Every function of IMASK and ICNTL is such a tree (`exists_maskRule`). -/
inductive MaskRule where
  | leaf (keep set : Word)
  | ifImask (bit : Nat) (yes no : MaskRule)
  | ifIcntl (bit : Nat) (yes no : MaskRule)
  deriving DecidableEq, Repr

/-- `TOPPC_POP_INT`: an interrupt that is to be taken while a `reg = TOPPCSTACK` pop is pending (R481). -/
inductive TopPcPopInt where
  | hold | fault
  deriving DecidableEq, Repr

/-- `CODES`: the field code tables of Appendix A (R146 to R158), which the sources do not give. A table lists what each
value of its field names, from 0 up; `none` marks a value without an entry. The AMF, SF and TERM codes (R143 to R145)
and the bits the formats print fixed are the sources' own and stand in the decoder. -/
structure Codes where
  /-- Xop of the ALU, the MAC and the shifter (R146). -/
  aluXop : Vector AluXop (2 ^ 3)
  macXop : Vector MacXop (2 ^ 3)
  shiftXop : Vector (Option ShiftXop) (2 ^ 3)
  /-- Yop of the ALU and the MAC (R147). -/
  aluYop : Vector AluYop (2 ^ 2)
  macYop : Vector MacYop (2 ^ 2)
  /-- Z (R148). -/
  dest : Vector Dest (2 ^ 1)
  /-- DREG (R149). -/
  dreg : Vector DReg (2 ^ 4)
  /-- The Register Selection Table, by RGP : REG (R150). -/
  reg : Vector (Option Reg) (2 ^ 6)
  /-- COND (R151). -/
  cond : Vector Cond (2 ^ 4)
  /-- BO (R152): the constant of the constant form as it stands (`false`) or inverted. -/
  bo : Vector (Option Bool) (2 ^ 2)
  /-- YY : CC (R152): the number of the constant. -/
  constNum : Vector (BitVec 4) (2 ^ 4)
  /-- DD and PD (R153). -/
  dmDest : Vector DmDest (2 ^ 2)
  pmDest : Vector PmDest (2 ^ 2)
  /-- G (R154). -/
  dagSel : Vector DagSel (2 ^ 1)
  /-- FO (R155). -/
  pinOp : Vector PinOp (2 ^ 2)
  /-- The mode-control fields (R156). -/
  modeOp : Vector ModeOp (2 ^ 2)
  /-- Pp, Lp and Cp (R157): whether to pop. -/
  pop : Vector Bool (2 ^ 1)
  /-- Spp (R157). -/
  stsOp : Vector StsOp (2 ^ 2)
  /-- DV (R158); the value 0000 is plain IDLE. -/
  slowDiv : Vector (Option SlowDiv) (2 ^ 4)
  deriving DecidableEq, Repr

/-- The OPEN parameters of R6. Plain data: it stands in the state, and no step changes it. -/
structure Config where
  /-- `MEMBER`. -/
  member : Member
  /-- `PM_MAP`: the populated ranges of program memory. -/
  pmMap : List Region
  /-- `DM_MAP`: the populated ranges of data memory. -/
  dmMap : List Region
  /-- `IO_MAP`: the populated ranges of the I/O space; every location of it is a device (R82). -/
  ioMap : List Region
  /-- `CNTR_STACK_DEPTH`. -/
  cntrStackDepth : Nat
  /-- `STS_STACK_DEPTH`. -/
  stsStackDepth : Nat
  /-- `RESET_PC`. -/
  resetPc : Addr
  /-- `INT_TABLE`, highest priority first. -/
  intTable : List IntSource
  /-- The function `entryMask` that R444 makes part of `INT_TABLE`: the rule of each source, in the table's order. A
  source past the end of the list has the function of R446, so `[]` gives R446 for the whole table (log 13). -/
  entryMask : List MaskRule
  /-- `IMASK_BITS`. -/
  imaskBits : Nat
  /-- `ICNTL_BITS`. -/
  icntlBits : Nat
  /-- `IFC_BITS`. -/
  ifcBits : Nat
  /-- `CNTR_FIRST_LOAD_PUSHES`. -/
  cntrFirstLoadPushes : Bool
  /-- `TOPPC_POP_INT`. -/
  topPcPopInt : TopPcPopInt
  /-- `END_PC`: where a run is taken to end (R362); a model convention. -/
  endPc : Option Addr
  /-- `BIASRND`, the biased rounding mode (R64); it acts only on a member with `hasExt`. -/
  biasrnd : Bool
  /-- `CODES`: the field code tables, by which the step decodes (log 3). -/
  codes : Codes
  deriving DecidableEq, Repr

namespace Config

/-! The free values. Each is an uninterpreted constant: nothing in Lean can evaluate it, so a claim about the machine
holds whatever it is. The first argument is the state's draw counter or step counter, so that each draw is fresh. -/

/-- R190, U1: the four flags AZ, AN, AV, AC (bits 0 to 3) after PASS constant. -/
opaque freeFlags : Nat → BitVec 4
/-- R190, U1: AR after PASS constant with AR_SAT set. -/
opaque freeWord : Nat → Word
/-- R172, U2: whether AR receives the saturated value when only the latched AV is set. -/
opaque freeChoice : Nat → Bool
/-- R91, U11: the new I register outside the precondition of the modulus logic. -/
opaque freeIndex : Nat → Addr
/-- R352, D18: CNTR after the exit of a CE loop that finds the counter stack empty. -/
opaque freeCntr : Nat → Addr
/-- R88: the value a data memory device location supplies. -/
opaque dmInput : Nat → Addr → Word
/-- R87, R98: the value a program memory device location supplies. -/
opaque pmInput : Nat → Addr → PmWord
/-- R82, R88: the value an I/O location supplies. -/
opaque ioInput : Nat → IoAddr → Word
/-- R40: the value serial port `port` supplies when its receive register is read. -/
opaque rxInput : Nat → Fin 2 → Word
/-- R49: the state of the FI pin when it is sampled. -/
opaque fiInput : Nat → Bool
/-- R445: whether source number `k` of the interrupt table requests service in a step. -/
opaque irqRequest : Nat → Nat → Bool

end Config
end Sys2Proof
end

