-- ==== Sys2Proof/WellFormed.lean ====
section
/-! DEFINITION. Which terms of `Instr` stand for an instruction word: the register classes of 10_state.md R29 and
the uses 30_encoding.md R160 item 4 forbids. Every other restriction of R160 is in the types of the operands. -/

namespace Sys2Proof

/-- One of the sixteen data registers (R28). -/
def Reg.isDreg : Reg → Bool
  | .dreg _ => true
  | .i _ | .m _ | .l _ | .astat | .mstat | .sstat | .imask | .icntl | .cntr | .sb | .px | .rx0 | .tx0 | .rx1 | .tx1
  | .ifc | .owrcntr => false

/-- A register a move may write: all but SSTAT, which is read only (R29). -/
def Reg.isDest : Reg → Bool
  | .sstat => false
  | .dreg _ | .i _ | .m _ | .l _ | .astat | .mstat | .imask | .icntl | .cntr | .sb | .px | .rx0 | .tx0 | .rx1 | .tx1
  | .ifc | .owrcntr => true

/-- A register a move may read: all but IFC and OWRCNTR, which are write only (R29). -/
def Reg.isSource : Reg → Bool
  | .ifc | .owrcntr => false
  | .dreg _ | .i _ | .m _ | .l _ | .astat | .mstat | .sstat | .imask | .icntl | .cntr | .sb | .px | .rx0 | .tx0
  | .rx1 | .tx1 => true

/-- A register the TOPPCSTACK forms may name: those of register groups 0, 1 and 2 (R376). -/
def Reg.isTopReg : Reg → Bool
  | .dreg _ | .i _ | .m _ | .l _ => true
  | .astat | .mstat | .sstat | .imask | .icntl | .cntr | .sb | .px | .rx0 | .tx0 | .rx1 | .tx1 | .ifc
  | .owrcntr => false

/-- A type 8 word: with no computation Z must be 0 (R160 item 3), and an ALU result to AR beside the move AR = AR is
the word of `NONE = <ALU>` (R119, R402). -/
def compMoveWellFormed (z : Dest) (op : Option AluMac) (d r : DReg) : Bool :=
  match op with
  | none => z == .result
  | some (.alu _ _ _) => !(z == .result && d == .ar && r == .ar)
  | some (.mac _ _ _) => true

/-- The terms that stand for a word of the instruction set. -/
def Instr.wellFormed : Instr → Bool
  | .moveFromTop d => d.isTopReg
  | .moveToTop r => r.isTopReg
  | .moveReg d r => d.isDest && r.isSource
  | .loadReg _ d => d.isDest && !d.isDreg
  | .readDm _ d => d.isDest
  | .writeDm _ r => r.isSource
  | .compMove z op d r => compMoveWellFormed z op d r
  | .aluPassY _ _ _ _ | .aluIncY _ _ _ _ | .aluAddC _ _ _ _ | .aluAdd _ _ _ _ | .aluNotY _ _ _ _
  | .aluNegY _ _ _ _ | .aluSubXYBorrow _ _ _ _ | .aluSubXY _ _ _ _ | .aluDecY _ _ _ _ | .aluSubYX _ _ _ _
  | .aluSubYXBorrow _ _ _ _ | .aluNotX _ _ _ _ | .aluAnd _ _ _ _ | .aluOr _ _ _ _ | .aluXor _ _ _ _
  | .aluAbs _ _ _ _ | .aluAddK _ _ _ _ _ | .aluAddKC _ _ _ _ _ | .aluSubXK _ _ _ _ _ | .aluSubXKBorrow _ _ _ _ _
  | .aluSubKX _ _ _ _ _ | .aluSubKXBorrow _ _ _ _ _ | .aluPassK _ _ _ _ _ | .aluPassKInc _ _ _ _ _
  | .aluPassKDec _ _ _ _ _ | .aluTstbit _ _ _ _ | .aluClrbit _ _ _ _ | .aluSetbit _ _ _ _ | .aluOrNotBit _ _ _ _
  | .aluTglbit _ _ _ _ | .aluXorNotBit _ _ _ _ | .aluNotK _ _ _ _ _ | .aluNegK _ _ _ _ _ | .aluNotXK _ _ _ _ _
  | .aluAbsK _ _ _ _ _ | .divs _ _ | .divq _ | .noneAlu _ _ _ | .macMulRnd _ _ _ _ | .macMulSs _ _ _ _
  | .macMulSu _ _ _ _ | .macMulUs _ _ _ _ | .macMulUu _ _ _ _ | .macAddRnd _ _ _ _ | .macAddSs _ _ _ _
  | .macAddSu _ _ _ _ | .macAddUs _ _ _ _ | .macAddUu _ _ _ _ | .macSubRnd _ _ _ _ | .macSubSs _ _ _ _
  | .macSubSu _ _ _ _ | .macSubUs _ _ _ _ | .macSubUu _ _ _ _ | .macSqrMulRnd _ _ _ | .macSqrMulSs _ _ _
  | .macSqrMulUu _ _ _ | .macSqrAddRnd _ _ _ | .macSqrAddSs _ _ _ | .macSqrAddUu _ _ _ | .macSqrSubRnd _ _ _
  | .macSqrSubSs _ _ _ | .macSqrSubUu _ _ _ | .satMr | .lshiftHi _ _ | .lshiftHiOr _ _ | .lshiftLo _ _
  | .lshiftLoOr _ _ | .ashiftHi _ _ | .ashiftHiOr _ _ | .ashiftLo _ _ | .ashiftLoOr _ _ | .normHi _ _
  | .normHiOr _ _ | .normLo _ _ | .normLoOr _ _ | .expHi _ _ | .expHix _ _ | .expLo _ _ | .expadj _ _
  | .lshiftImmHi _ _ | .lshiftImmHiOr _ _ | .lshiftImmLo _ _ | .lshiftImmLoOr _ _ | .ashiftImmHi _ _
  | .ashiftImmHiOr _ _ | .ashiftImmLo _ _ | .ashiftImmLoOr _ _ | .loadDreg _ _ | .readDmInd _ _ _ _
  | .writeDmInd _ _ _ _ | .writeDmImm _ _ _ _ | .readPmInd _ _ _ | .writePmInd _ _ _ | .readIo _ _ | .writeIo _ _
  | .jump _ _ | .call _ _ | .jumpInd _ _ | .callInd _ _ | .jumpFlag _ _ | .callFlag _ _ | .flagOut _ _ _ _ _
  | .rts _ | .rti _ | .doUntil _ _ | .idle | .idleN _ | .stackControl _ _ _ _ | .enaInts | .disInts
  | .modeControl _ _ _ _ _ _ _ | .modify _ _ _ | .nop | .compReadDm _ _ _ _ _ _ | .compReadPm _ _ _ _ _
  | .shiftReadDm _ _ _ _ _ _ | .shiftReadPm _ _ _ _ _ | .shiftMove _ _ _ _ | .compWriteDm _ _ _ _ _ _
  | .compWritePm _ _ _ _ _ | .shiftWriteDm _ _ _ _ _ _ | .shiftWritePm _ _ _ _ _ | .dualRead _ _ _ _ _ _
  | .compDualRead _ _ _ _ _ _ _ | .unused _ => true

end Sys2Proof
end

