-- ==== Sys2Proof/Decode.lean ====
section
/-! DEFINITION. The decoder and the encoder. The formats are those of 30_encoding.md R112 to R142, the codes of
AMF, SF and TERM those of R143 to R145, the unused encodings those of R160. The code tables of Appendix A are the
parameter `CODES` (R6), a `Codes`; `standardCodes` is its default. `decodeWith` is total: a word that stands for no
instruction is rejected with the item of R160 that rejects it. `encodeWith` is written from the same format rules. -/

namespace Sys2Proof

/-- The `n`-bit field of the word `w` whose lowest bit is bit `lo` (R7, R110). -/
def fld (w : PmWord) (lo n : Nat) : BitVec n := w.extractLsb' lo n

/-- The one-bit field at bit `k`, as a truth value. -/
def bit (w : PmWord) (k : Nat) : Bool := fld w k 1 == 1#1

/-- The word that holds the field value `v` with its lowest bit at bit `lo`, and zeros elsewhere. -/
def put {n : Nat} (lo : Nat) (v : BitVec n) : PmWord := v.setWidth 24 <<< lo

/-- The word that holds the bit `b` at bit `k`. -/
def putBit (k : Nat) (b : Bool) : PmWord := put k (BitVec.ofBool b)

/-! The code tables of Appendix A (R146 to R158), a parameter of the machine (R6). -/

/-- The entry of a code table for the field value `b`. -/
def look {α : Type} {n : Nat} (t : Vector α (2 ^ n)) (b : BitVec n) : α := t[b.toNat]'b.isLt

/-- The lowest field value whose entry is `v`. -/
def codeOf {α : Type} [DecidableEq α] {n : Nat} (t : Vector α (2 ^ n)) (v : α) : BitVec n :=
  BitVec.ofNat n (t.toList.idxOf v)

/-- The tables of R146 to R158: PRESUMED, by the spec itself (log 3). The default of the parameter `CODES` (R6). -/
def standardCodes : Codes :=
  { aluXop := #v[.ax0, .ax1, .ar, .mr0, .mr1, .mr2, .sr0, .sr1]
    macXop := #v[.mx0, .mx1, .ar, .mr0, .mr1, .mr2, .sr0, .sr1]
    shiftXop := #v[some .si, none, some .ar, some .mr0, some .mr1, some .mr2, some .sr0, some .sr1]
    aluYop := #v[.ay0, .ay1, .af, .zero]
    macYop := #v[.my0, .my1, .mf, .zero]
    dest := #v[.result, .feedback]
    dreg := #v[.ax0, .ax1, .mx0, .mx1, .ay0, .ay1, .my0, .my1, .si, .se, .ar, .mr0, .mr1, .mr2, .sr0, .sr1]
    reg := #v[
      some (.dreg .ax0), some (.dreg .ax1), some (.dreg .mx0), some (.dreg .mx1),
      some (.dreg .ay0), some (.dreg .ay1), some (.dreg .my0), some (.dreg .my1),
      some (.dreg .si), some (.dreg .se), some (.dreg .ar), some (.dreg .mr0),
      some (.dreg .mr1), some (.dreg .mr2), some (.dreg .sr0), some (.dreg .sr1),
      some (.i 0), some (.i 1), some (.i 2), some (.i 3), some (.m 0), some (.m 1), some (.m 2), some (.m 3),
      some (.l 0), some (.l 1), some (.l 2), some (.l 3), none, none, none, none,
      some (.i 4), some (.i 5), some (.i 6), some (.i 7), some (.m 4), some (.m 5), some (.m 6), some (.m 7),
      some (.l 4), some (.l 5), some (.l 6), some (.l 7), none, none, none, none,
      some .astat, some .mstat, some .sstat, some .imask, some .icntl, some .cntr, some .sb, some .px,
      some .rx0, some .tx0, some .rx1, some .tx1, some .ifc, some .owrcntr, none, none]
    cond := #v[.eq, .ne, .gt, .le, .lt, .ge, .av, .notAv, .ac, .notAc, .neg, .pos, .mv, .notMv, .notCe, .always]
    bo := #v[none, some false, none, some true]
    constNum := #v[0, 1, 2, 3, 4, 5, 6, 7, 8, 9, 10, 11, 12, 13, 14, 15]
    dmDest := #v[.ax0, .ax1, .mx0, .mx1]
    pmDest := #v[.ay0, .ay1, .my0, .my1]
    dagSel := #v[.dag1, .dag2]
    pinOp := #v[.keep, .toggle, .reset, .set]
    modeOp := #v[.keep, .keepAlt, .dis, .ena]
    pop := #v[false, true]
    stsOp := #v[.keep, .keepAlt, .push, .pop]
    slowDiv := #v[none, some .n16, some .n32, none, some .n64, none, none, none, some .n128, none, none, none, none,
      none, none, none] }

/-- Xop, ALU column (R146). -/
def aluXopCode (k : Codes) (v : AluXop) : BitVec 3 := codeOf k.aluXop v

/-- What a field value names: Xop, ALU column (R146). -/
def aluXopOf (k : Codes) (b : BitVec 3) : AluXop := look k.aluXop b

/-- Xop, MAC column (R146). -/
def macXopCode (k : Codes) (v : MacXop) : BitVec 3 := codeOf k.macXop v

/-- What a field value names: Xop, MAC column (R146). -/
def macXopOf (k : Codes) (b : BitVec 3) : MacXop := look k.macXop b

/-- Xop, shifter column (R146). -/
def shiftXopCode (k : Codes) (v : ShiftXop) : BitVec 3 := codeOf k.shiftXop (some v)

/-- What a field value names: Xop, shifter column (R146); none where the table has no entry. -/
def shiftXopOf (k : Codes) (b : BitVec 3) : Option ShiftXop := look k.shiftXop b

/-- Yop of the ALU (R147). -/
def aluYopCode (k : Codes) (v : AluYop) : BitVec 2 := codeOf k.aluYop v

/-- What a field value names: Yop of the ALU (R147). -/
def aluYopOf (k : Codes) (b : BitVec 2) : AluYop := look k.aluYop b

/-- Yop of the MAC (R147). -/
def macYopCode (k : Codes) (v : MacYop) : BitVec 2 := codeOf k.macYop v

/-- What a field value names: Yop of the MAC (R147). -/
def macYopOf (k : Codes) (b : BitVec 2) : MacYop := look k.macYop b

/-- Z (R148). -/
def destCode (k : Codes) (v : Dest) : BitVec 1 := codeOf k.dest v

/-- What a field value names: Z (R148). -/
def destOf (k : Codes) (b : BitVec 1) : Dest := look k.dest b

/-- DREG (R149). -/
def dregCode (k : Codes) (v : DReg) : BitVec 4 := codeOf k.dreg v

/-- What a field value names: DREG (R149). -/
def dregOf (k : Codes) (b : BitVec 4) : DReg := look k.dreg b

/-- COND (R151). -/
def condCode (k : Codes) (v : Cond) : BitVec 4 := codeOf k.cond v

/-- What a field value names: COND (R151). -/
def condOf (k : Codes) (b : BitVec 4) : Cond := look k.cond b

/-- BO (R152). -/
def boCode (k : Codes) (v : Bool) : BitVec 2 := codeOf k.bo (some v)

/-- What a field value names: BO (R152); none where the table has no entry. -/
def boOf (k : Codes) (b : BitVec 2) : Option Bool := look k.bo b

/-- YY : CC (R152). -/
def constNumCode (k : Codes) (v : BitVec 4) : BitVec 4 := codeOf k.constNum v

/-- What a field value names: YY : CC (R152). -/
def constNumOf (k : Codes) (b : BitVec 4) : BitVec 4 := look k.constNum b

/-- DD (R153). -/
def dmDestCode (k : Codes) (v : DmDest) : BitVec 2 := codeOf k.dmDest v

/-- What a field value names: DD (R153). -/
def dmDestOf (k : Codes) (b : BitVec 2) : DmDest := look k.dmDest b

/-- PD (R153). -/
def pmDestCode (k : Codes) (v : PmDest) : BitVec 2 := codeOf k.pmDest v

/-- What a field value names: PD (R153). -/
def pmDestOf (k : Codes) (b : BitVec 2) : PmDest := look k.pmDest b

/-- G (R154). -/
def dagSelCode (k : Codes) (v : DagSel) : BitVec 1 := codeOf k.dagSel v

/-- What a field value names: G (R154). -/
def dagSelOf (k : Codes) (b : BitVec 1) : DagSel := look k.dagSel b

/-- FO (R155). -/
def pinOpCode (k : Codes) (v : PinOp) : BitVec 2 := codeOf k.pinOp v

/-- What a field value names: FO (R155). -/
def pinOpOf (k : Codes) (b : BitVec 2) : PinOp := look k.pinOp b

/-- The mode-control fields (R156). -/
def modeOpCode (k : Codes) (v : ModeOp) : BitVec 2 := codeOf k.modeOp v

/-- What a field value names: the mode-control fields (R156). -/
def modeOpOf (k : Codes) (b : BitVec 2) : ModeOp := look k.modeOp b

/-- Pp, Lp and Cp (R157). -/
def popCode (k : Codes) (v : Bool) : BitVec 1 := codeOf k.pop v

/-- What a field value names: Pp, Lp and Cp (R157). -/
def popOf (k : Codes) (b : BitVec 1) : Bool := look k.pop b

/-- Spp (R157). -/
def stsOpCode (k : Codes) (v : StsOp) : BitVec 2 := codeOf k.stsOp v

/-- What a field value names: Spp (R157). -/
def stsOpOf (k : Codes) (b : BitVec 2) : StsOp := look k.stsOp b

/-- DV (R158). -/
def slowDivCode (k : Codes) (v : SlowDiv) : BitVec 4 := codeOf k.slowDiv (some v)

/-- What a field value names: DV (R158); none where the table has no entry. -/
def slowDivOf (k : Codes) (b : BitVec 4) : Option SlowDiv := look k.slowDiv b

/-- A Y operand of DIVS as one of the ALU's (R135). -/
def DivsYop.toYop : DivsYop → AluYop
  | .ay1 => .ay1
  | .af => .af

/-- Yop of DIVS (R147). -/
def divsYopCode (k : Codes) (v : DivsYop) : BitVec 2 := aluYopCode k v.toYop

/-- The Y operand of DIVS a field value names: only AY1 and AF are permitted (R160 item 4). -/
def divsYopOf (k : Codes) (b : BitVec 2) : Option DivsYop :=
  match aluYopOf k b with
  | .ay1 => some .ay1
  | .af => some .af
  | .ay0 | .zero => none

/-- The RGP code of a register (R150). -/
def rgpCode (k : Codes) (r : Reg) : BitVec 2 := (codeOf k.reg (some r)).extractLsb' 4 2

/-- The REG code of a register (R150). -/
def regCode (k : Codes) (r : Reg) : BitVec 4 := (codeOf k.reg (some r)).extractLsb' 0 4

/-- The register an RGP and REG pair names (R150); none where the table has no entry. -/
def regOf (k : Codes) (rgp : BitVec 2) (reg : BitVec 4) : Option Reg := look k.reg (rgp ++ reg)

/-- A code table set by which every operand has a code, and which leaves free the patterns that the formats print
fixed: Z = 0 beside AMF = 00000, DREG = 1010 for AR in the word of NONE, RGP : REG = 111111 for TOPPCSTACK, BO = 00 in
the register form, DV = 0000 for plain IDLE (R119, R120, R128, R142, R160). -/
structure Codes.Complete (k : Codes) : Prop where
  aluXop : ∀ v, aluXopOf k (aluXopCode k v) = v
  macXop : ∀ v, macXopOf k (macXopCode k v) = v
  shiftXop : ∀ v, shiftXopOf k (shiftXopCode k v) = some v
  aluYop : ∀ v, aluYopOf k (aluYopCode k v) = v
  macYop : ∀ v, macYopOf k (macYopCode k v) = v
  dest : ∀ v, destOf k (destCode k v) = v
  dreg : ∀ v, dregOf k (dregCode k v) = v
  cond : ∀ v, condOf k (condCode k v) = v
  bo : ∀ v, boOf k (boCode k v) = some v
  constNum : ∀ v, constNumOf k (constNumCode k v) = v
  dmDest : ∀ v, dmDestOf k (dmDestCode k v) = v
  pmDest : ∀ v, pmDestOf k (pmDestCode k v) = v
  dagSel : ∀ v, dagSelOf k (dagSelCode k v) = v
  pinOp : ∀ v, pinOpOf k (pinOpCode k v) = v
  modeOp : ∀ v, modeOpOf k (modeOpCode k v) = v
  pop : ∀ v, popOf k (popCode k v) = v
  stsOp : ∀ v, stsOpOf k (stsOpCode k v) = v
  slowDiv : ∀ v, slowDivOf k (slowDivCode k v) = some v
  reg : ∀ r, regOf k (rgpCode k r) (regCode k r) = some r
  zeroIsResult : destCode k .result = 0#1
  tenIsAr : dregOf k 10#4 = .ar
  topIsFree : regOf k 3#2 15#4 = none
  boZeroIsFree : boOf k 0#2 = none
  dvZeroIsFree : slowDivOf k 0#4 = none

/-! The codes the sources give. -/

/-- TERM (R145). -/
def termCode : Term → BitVec 4
  | .ne => 0#4
  | .eq => 1#4
  | .le => 2#4
  | .gt => 3#4
  | .ge => 4#4
  | .lt => 5#4
  | .notAv => 6#4
  | .av => 7#4
  | .notAc => 8#4
  | .ac => 9#4
  | .pos => 10#4
  | .neg => 11#4
  | .notMv => 12#4
  | .mv => 13#4
  | .ce => 14#4
  | .forever => 15#4

/-- The inverse of `termCode`. -/
def termOf (b : BitVec 4) : Term :=
  match b.toNat with
  | 0 => .ne
  | 1 => .eq
  | 2 => .le
  | 3 => .gt
  | 4 => .ge
  | 5 => .lt
  | 6 => .notAv
  | 7 => .av
  | 8 => .notAc
  | 9 => .ac
  | 10 => .pos
  | 11 => .neg
  | 12 => .notMv
  | 13 => .mv
  | 14 => .ce
  | _ => .forever

/-- The low four bits of AMF where AMF[4] = 1 (R143). -/
def aluFnCode : AluFn → BitVec 4
  | .passY => 0#4
  | .incY => 1#4
  | .addC => 2#4
  | .add => 3#4
  | .notY => 4#4
  | .negY => 5#4
  | .subXYBorrow => 6#4
  | .subXY => 7#4
  | .decY => 8#4
  | .subYX => 9#4
  | .subYXBorrow => 10#4
  | .notX => 11#4
  | .andXY => 12#4
  | .orXY => 13#4
  | .xorXY => 14#4
  | .absX => 15#4

/-- The inverse of `aluFnCode`. -/
def aluFnOf (b : BitVec 4) : AluFn :=
  match b.toNat with
  | 0 => .passY
  | 1 => .incY
  | 2 => .addC
  | 3 => .add
  | 4 => .notY
  | 5 => .negY
  | 6 => .subXYBorrow
  | 7 => .subXY
  | 8 => .decY
  | 9 => .subYX
  | 10 => .subYXBorrow
  | 11 => .notX
  | 12 => .andXY
  | 13 => .orXY
  | 14 => .xorXY
  | _ => .absX

/-- The low four bits of AMF where AMF[4] = 0 (R143, R230). -/
def macFnCode : MacFn → BitVec 4
  | ⟨.mul, .rnd⟩ => 1#4
  | ⟨.add, .rnd⟩ => 2#4
  | ⟨.sub, .rnd⟩ => 3#4
  | ⟨.mul, .ss⟩ => 4#4
  | ⟨.mul, .su⟩ => 5#4
  | ⟨.mul, .us⟩ => 6#4
  | ⟨.mul, .uu⟩ => 7#4
  | ⟨.add, .ss⟩ => 8#4
  | ⟨.add, .su⟩ => 9#4
  | ⟨.add, .us⟩ => 10#4
  | ⟨.add, .uu⟩ => 11#4
  | ⟨.sub, .ss⟩ => 12#4
  | ⟨.sub, .su⟩ => 13#4
  | ⟨.sub, .us⟩ => 14#4
  | ⟨.sub, .uu⟩ => 15#4

/-- The inverse of `macFnCode`; 0000 is no operation. -/
def macFnOf (b : BitVec 4) : Option MacFn :=
  match b.toNat with
  | 0 => none
  | 1 => some ⟨.mul, .rnd⟩
  | 2 => some ⟨.add, .rnd⟩
  | 3 => some ⟨.sub, .rnd⟩
  | 4 => some ⟨.mul, .ss⟩
  | 5 => some ⟨.mul, .su⟩
  | 6 => some ⟨.mul, .us⟩
  | 7 => some ⟨.mul, .uu⟩
  | 8 => some ⟨.add, .ss⟩
  | 9 => some ⟨.add, .su⟩
  | 10 => some ⟨.add, .us⟩
  | 11 => some ⟨.add, .uu⟩
  | 12 => some ⟨.sub, .ss⟩
  | 13 => some ⟨.sub, .su⟩
  | 14 => some ⟨.sub, .us⟩
  | _ => some ⟨.sub, .uu⟩

/-- SF (R144). -/
def shiftFnCode : ShiftFn → BitVec 4
  | .lshift .hi false => 0#4
  | .lshift .hi true => 1#4
  | .lshift .lo false => 2#4
  | .lshift .lo true => 3#4
  | .ashift .hi false => 4#4
  | .ashift .hi true => 5#4
  | .ashift .lo false => 6#4
  | .ashift .lo true => 7#4
  | .norm .hi false => 8#4
  | .norm .hi true => 9#4
  | .norm .lo false => 10#4
  | .norm .lo true => 11#4
  | .expHi => 12#4
  | .expHix => 13#4
  | .expLo => 14#4
  | .expadj => 15#4

/-- The inverse of `shiftFnCode`. -/
def shiftFnOf (b : BitVec 4) : ShiftFn :=
  match b.toNat with
  | 0 => .lshift .hi false
  | 1 => .lshift .hi true
  | 2 => .lshift .lo false
  | 3 => .lshift .lo true
  | 4 => .ashift .hi false
  | 5 => .ashift .hi true
  | 6 => .ashift .lo false
  | 7 => .ashift .lo true
  | 8 => .norm .hi false
  | 9 => .norm .hi true
  | 10 => .norm .lo false
  | 11 => .norm .lo true
  | 12 => .expHi
  | 13 => .expHix
  | 14 => .expLo
  | _ => .expadj

/-! The decoder. -/

/-- Why a word stands for no instruction: the items of R160. -/
inductive DecodeReject where
  /-- Item 2: a 1 where the format fixes a 0, or the reverse. -/
  | fixedBits
  /-- Item 3: a field value without a table entry. -/
  | fieldValue
  /-- Item 4: a use the spec forbids. -/
  | forbiddenUse
  deriving DecidableEq, Repr

/-- The result of decoding. -/
abbrev Decoded := Except DecodeReject Instr

/-- The instruction of a type 9 register form with an ALU function (R120). -/
def aluRegInstr (f : AluFn) (z : Dest) (y : AluYop) (x : AluXop) (c : Cond) : Instr :=
  match f with
  | .passY => .aluPassY z y x c
  | .incY => .aluIncY z y x c
  | .addC => .aluAddC z y x c
  | .add => .aluAdd z y x c
  | .notY => .aluNotY z y x c
  | .negY => .aluNegY z y x c
  | .subXYBorrow => .aluSubXYBorrow z y x c
  | .subXY => .aluSubXY z y x c
  | .decY => .aluDecY z y x c
  | .subYX => .aluSubYX z y x c
  | .subYXBorrow => .aluSubYXBorrow z y x c
  | .notX => .aluNotX z y x c
  | .andXY => .aluAnd z y x c
  | .orXY => .aluOr z y x c
  | .xorXY => .aluXor z y x c
  | .absX => .aluAbs z y x c

/-- The instruction of a type 9 constant form (R120, R152): constant number `n` (YY:CC), inverted where BO = 11. -/
def aluConstInstr (f : AluFn) (z : Dest) (n : BitVec 4) (inv : Bool) (x : AluXop) (c : Cond) : Instr :=
  match f with
  | .passY => .aluPassK z n inv x c
  | .incY => .aluPassKInc z n inv x c
  | .addC => .aluAddKC z n inv x c
  | .add => .aluAddK z n inv x c
  | .notY => .aluNotK z n inv x c
  | .negY => .aluNegK z n inv x c
  | .subXYBorrow => .aluSubXKBorrow z n inv x c
  | .subXY => .aluSubXK z n inv x c
  | .decY => .aluPassKDec z n inv x c
  | .subYX => .aluSubKX z n inv x c
  | .subYXBorrow => .aluSubKXBorrow z n inv x c
  | .notX => .aluNotXK z n inv x c
  | .andXY => if inv then .aluClrbit z n x c else .aluTstbit z n x c
  | .orXY => if inv then .aluOrNotBit z n x c else .aluSetbit z n x c
  | .xorXY => if inv then .aluXorNotBit z n x c else .aluTglbit z n x c
  | .absX => .aluAbsK z n inv x c

/-- The instruction of a type 9 register form with a MAC function (R120). -/
def macRegInstr (f : MacFn) (z : Dest) (y : MacYop) (x : MacXop) (c : Cond) : Instr :=
  match f with
  | ⟨.mul, .rnd⟩ => .macMulRnd z y x c
  | ⟨.mul, .ss⟩ => .macMulSs z y x c
  | ⟨.mul, .su⟩ => .macMulSu z y x c
  | ⟨.mul, .us⟩ => .macMulUs z y x c
  | ⟨.mul, .uu⟩ => .macMulUu z y x c
  | ⟨.add, .rnd⟩ => .macAddRnd z y x c
  | ⟨.add, .ss⟩ => .macAddSs z y x c
  | ⟨.add, .su⟩ => .macAddSu z y x c
  | ⟨.add, .us⟩ => .macAddUs z y x c
  | ⟨.add, .uu⟩ => .macAddUu z y x c
  | ⟨.sub, .rnd⟩ => .macSubRnd z y x c
  | ⟨.sub, .ss⟩ => .macSubSs z y x c
  | ⟨.sub, .su⟩ => .macSubSu z y x c
  | ⟨.sub, .us⟩ => .macSubUs z y x c
  | ⟨.sub, .uu⟩ => .macSubUu z y x c

/-- The instruction of a type 9 squaring form (R120); SU and US have none (R242). -/
def macSqrInstr (f : MacFn) (z : Dest) (x : MacXop) (c : Cond) : Option Instr :=
  match f with
  | ⟨.mul, .rnd⟩ => some (.macSqrMulRnd z x c)
  | ⟨.mul, .ss⟩ => some (.macSqrMulSs z x c)
  | ⟨.mul, .uu⟩ => some (.macSqrMulUu z x c)
  | ⟨.add, .rnd⟩ => some (.macSqrAddRnd z x c)
  | ⟨.add, .ss⟩ => some (.macSqrAddSs z x c)
  | ⟨.add, .uu⟩ => some (.macSqrAddUu z x c)
  | ⟨.sub, .rnd⟩ => some (.macSqrSubRnd z x c)
  | ⟨.sub, .ss⟩ => some (.macSqrSubSs z x c)
  | ⟨.sub, .uu⟩ => some (.macSqrSubUu z x c)
  | ⟨_, .su⟩ | ⟨_, .us⟩ => none

/-- The instruction of a type 16 word (R127). -/
def shiftCondInstr (f : ShiftFn) (x : ShiftXop) (c : Cond) : Instr :=
  match f with
  | .lshift .hi false => .lshiftHi x c
  | .lshift .hi true => .lshiftHiOr x c
  | .lshift .lo false => .lshiftLo x c
  | .lshift .lo true => .lshiftLoOr x c
  | .ashift .hi false => .ashiftHi x c
  | .ashift .hi true => .ashiftHiOr x c
  | .ashift .lo false => .ashiftLo x c
  | .ashift .lo true => .ashiftLoOr x c
  | .norm .hi false => .normHi x c
  | .norm .hi true => .normHiOr x c
  | .norm .lo false => .normLo x c
  | .norm .lo true => .normLoOr x c
  | .expHi => .expHi x c
  | .expHix => .expHix x c
  | .expLo => .expLo x c
  | .expadj => .expadj x c

/-- The instruction of a type 15 word (R126); only LSHIFT and ASHIFT have one (R274). -/
def shiftImmInstr (f : ShiftFn) (x : ShiftXop) (e : BitVec 8) : Option Instr :=
  match f with
  | .lshift .hi false => some (.lshiftImmHi x e)
  | .lshift .hi true => some (.lshiftImmHiOr x e)
  | .lshift .lo false => some (.lshiftImmLo x e)
  | .lshift .lo true => some (.lshiftImmLoOr x e)
  | .ashift .hi false => some (.ashiftImmHi x e)
  | .ashift .hi true => some (.ashiftImmHiOr x e)
  | .ashift .lo false => some (.ashiftImmLo x e)
  | .ashift .lo true => some (.ashiftImmLoOr x e)
  | .norm _ _ | .expHi | .expHix | .expLo | .expadj => none

/-- Accept `some`, and reject `none` for the reason `r`. -/
def acceptOr (r : DecodeReject) : Option Instr → Decoded
  | some i => .ok i
  | none => .error r

/-- Accept an instruction whose use is not forbidden (R160 item 4). -/
def acceptWellFormed (i : Instr) : Decoded :=
  if i.wellFormed then .ok i else .error .forbiddenUse

/-- The ALU or MAC clause in bits 17 to 8 (R115, R143); none for AMF = 00000. -/
def aluMacOf (k : Codes) (w : PmWord) : Option AluMac :=
  if bit w 17 then
    some (.alu (aluFnOf (fld w 13 4)) (aluYopOf k (fld w 11 2)) (aluXopOf k (fld w 8 3)))
  else
    match macFnOf (fld w 13 4) with
    | some f => some (.mac f (macYopOf k (fld w 11 2)) (macXopOf k (fld w 8 3)))
    | none => none

/-- With AMF = 00000 the fields Z, Yop and Xop must be zero (R160 item 3). -/
def noComputation (w : PmWord) (i : Instr) : Decoded :=
  if fld w 8 5 = 0#5 ∧ fld w 18 1 = 0#1 then .ok i else .error .fieldValue

/-- Type 1 (R112). -/
def decodeType1 (k : Codes) (w : PmWord) : Decoded :=
  match aluMacOf k w with
  | some op => .ok (.compDualRead (pmDestOf k (fld w 20 2)) (dmDestOf k (fld w 18 2)) op
      (fld w 6 2) (fld w 4 2) (fld w 2 2) (fld w 0 2))
  | none =>
    if fld w 8 5 = 0#5 then
      .ok (.dualRead (pmDestOf k (fld w 20 2)) (dmDestOf k (fld w 18 2)) (fld w 6 2) (fld w 4 2) (fld w 2 2)
        (fld w 0 2))
    else .error .fieldValue

/-- Type 4 (R115). -/
def decodeType4 (k : Codes) (w : PmWord) : Decoded :=
  match aluMacOf k w with
  | some op =>
    if bit w 19 then
      .ok (.compWriteDm (dagSelOf k (fld w 20 1)) (destOf k (fld w 18 1)) op (dregOf k (fld w 4 4)) (fld w 2 2)
        (fld w 0 2))
    else
      .ok (.compReadDm (dagSelOf k (fld w 20 1)) (destOf k (fld w 18 1)) op (dregOf k (fld w 4 4)) (fld w 2 2)
        (fld w 0 2))
  | none =>
    noComputation w
      (if bit w 19 then .writeDmInd (dagSelOf k (fld w 20 1)) (dregOf k (fld w 4 4)) (fld w 2 2) (fld w 0 2)
       else .readDmInd (dagSelOf k (fld w 20 1)) (dregOf k (fld w 4 4)) (fld w 2 2) (fld w 0 2))

/-- Type 5 (R116). -/
def decodeType5 (k : Codes) (w : PmWord) : Decoded :=
  match aluMacOf k w with
  | some op =>
    if bit w 19 then .ok (.compWritePm (destOf k (fld w 18 1)) op (dregOf k (fld w 4 4)) (fld w 2 2) (fld w 0 2))
    else .ok (.compReadPm (destOf k (fld w 18 1)) op (dregOf k (fld w 4 4)) (fld w 2 2) (fld w 0 2))
  | none =>
    noComputation w
      (if bit w 19 then .writePmInd (dregOf k (fld w 4 4)) (fld w 2 2) (fld w 0 2)
       else .readPmInd (dregOf k (fld w 4 4)) (fld w 2 2) (fld w 0 2))

/-- Types 3 and 7: the register an RGP and REG pair names, used as `mk` says. -/
def decodeWithReg (k : Codes) (rgp : BitVec 2) (reg : BitVec 4) (mk : Reg → Instr) : Decoded :=
  match regOf k rgp reg with
  | some r => acceptWellFormed (mk r)
  | none => .error .fieldValue

/-- Type 8 (R119). -/
def decodeType8 (k : Codes) (w : PmWord) : Decoded :=
  match aluMacOf k w with
  | some (.alu f y x) =>
    if fld w 18 1 = 0#1 ∧ fld w 4 4 = 10#4 ∧ fld w 0 4 = 10#4 then .ok (.noneAlu f y x)
    else .ok (.compMove (destOf k (fld w 18 1)) (some (.alu f y x)) (dregOf k (fld w 4 4)) (dregOf k (fld w 0 4)))
  | some (.mac f y x) =>
    .ok (.compMove (destOf k (fld w 18 1)) (some (.mac f y x)) (dregOf k (fld w 4 4)) (dregOf k (fld w 0 4)))
  | none => noComputation w (.compMove .result none (dregOf k (fld w 4 4)) (dregOf k (fld w 0 4)))

/-- Type 9 (R120): the three layouts are told apart by bits 7 to 4 and AMF[4]. -/
def decodeType9 (k : Codes) (w : PmWord) : Decoded :=
  if bit w 17 then
    if fld w 4 4 = 0#4 then
      .ok (aluRegInstr (aluFnOf (fld w 13 4)) (destOf k (fld w 18 1)) (aluYopOf k (fld w 11 2)) (aluXopOf k (fld w 8 3))
        (condOf k (fld w 0 4)))
    else
      match boOf k (fld w 4 2) with
      | some inv =>
        .ok (aluConstInstr (aluFnOf (fld w 13 4)) (destOf k (fld w 18 1)) (constNumOf k (fld w 11 2 ++ fld w 6 2)) inv
          (aluXopOf k (fld w 8 3)) (condOf k (fld w 0 4)))
      | none => .error .fieldValue
  else
    match macFnOf (fld w 13 4) with
    | none => .error .fieldValue
    | some f =>
      if fld w 4 4 = 0#4 then
        .ok (macRegInstr f (destOf k (fld w 18 1)) (macYopOf k (fld w 11 2)) (macXopOf k (fld w 8 3)) (condOf k
        (fld w 0 4)))
      else if fld w 4 4 = 1#4 ∧ fld w 11 2 = 0#2 then
        acceptOr .fieldValue (macSqrInstr f (destOf k (fld w 18 1)) (macXopOf k (fld w 8 3)) (condOf k (fld w 0 4)))
      else .error .fixedBits

/-- Types 12 to 14: a shifter operand, used as `mk` says. -/
def decodeShift (k : Codes) (w : PmWord) (mk : ShiftFn → ShiftXop → Instr) : Decoded :=
  match shiftXopOf k (fld w 8 3) with
  | some x => .ok (mk (shiftFnOf (fld w 11 4)) x)
  | none => .error .fieldValue

/-- Type 12 (R123). -/
def decodeType12 (k : Codes) (w : PmWord) : Decoded :=
  decodeShift k w fun f x =>
    if bit w 15 then .shiftWriteDm (dagSelOf k (fld w 16 1)) f x (dregOf k (fld w 4 4)) (fld w 2 2) (fld w 0 2)
    else .shiftReadDm (dagSelOf k (fld w 16 1)) f x (dregOf k (fld w 4 4)) (fld w 2 2) (fld w 0 2)

/-- Type 13 (R124). -/
def decodeType13 (k : Codes) (w : PmWord) : Decoded :=
  decodeShift k w fun f x =>
    if bit w 15 then .shiftWritePm f x (dregOf k (fld w 4 4)) (fld w 2 2) (fld w 0 2)
    else .shiftReadPm f x (dregOf k (fld w 4 4)) (fld w 2 2) (fld w 0 2)

/-- Type 14 (R125). -/
def decodeType14 (k : Codes) (w : PmWord) : Decoded :=
  if bit w 15 then .error .fixedBits
  else decodeShift k w fun f x => .shiftMove f x (dregOf k (fld w 4 4)) (dregOf k (fld w 0 4))

/-- Type 15 (R126). -/
def decodeType15 (k : Codes) (w : PmWord) : Decoded :=
  if bit w 15 then .error .fixedBits
  else
    match shiftXopOf k (fld w 8 3) with
    | some x => acceptOr .fieldValue (shiftImmInstr (shiftFnOf (fld w 11 4)) x (fld w 0 8))
    | none => .error .fieldValue

/-- Type 16 (R127). -/
def decodeType16 (k : Codes) (w : PmWord) : Decoded :=
  if fld w 15 1 = 0#1 ∧ fld w 4 4 = 0#4 then
    decodeShift k w fun f x => shiftCondInstr f x (condOf k (fld w 0 4))
  else .error .fixedBits

/-- Type 17 (R128): the two TOPPCSTACK forms first. -/
def decodeType17 (k : Codes) (w : PmWord) : Decoded :=
  if fld w 12 4 = 0#4 then
    if fld w 8 2 = 3#2 ∧ fld w 0 4 = 15#4 then decodeWithReg k (fld w 10 2) (fld w 4 4) .moveFromTop
    else if fld w 10 2 = 3#2 ∧ fld w 4 4 = 15#4 then decodeWithReg k (fld w 8 2) (fld w 0 4) .moveToTop
    else
      match regOf k (fld w 10 2) (fld w 4 4), regOf k (fld w 8 2) (fld w 0 4) with
      | some d, some r => acceptWellFormed (.moveReg d r)
      | _, _ => .error .fieldValue
  else .error .fixedBits

/-- Type 18 (R129). -/
def decodeType18 (k : Codes) (w : PmWord) : Decoded :=
  if fld w 0 2 = 0#2 then
    .ok (.modeControl (modeOpOf k (fld w 14 2)) (modeOpOf k (fld w 12 2)) (modeOpOf k (fld w 10 2)) (modeOpOf k
        (fld w 8 2))
      (modeOpOf k (fld w 6 2)) (modeOpOf k (fld w 4 2)) (modeOpOf k (fld w 2 2)))
  else .error .fixedBits

/-- Type 19 (R130). -/
def decodeType19 (k : Codes) (w : PmWord) : Decoded :=
  if fld w 8 8 = 0#8 ∧ fld w 5 1 = 0#1 then
    .ok (if bit w 4 then .callInd (fld w 6 2) (condOf k (fld w 0 4)) else .jumpInd (fld w 6 2) (condOf k (fld w 0 4)))
  else .error .fixedBits

/-- Type 20 (R131). -/
def decodeType20 (k : Codes) (w : PmWord) : Decoded :=
  if fld w 5 11 = 0#11 then
    .ok (if bit w 4 then .rti (condOf k (fld w 0 4)) else .rts (condOf k (fld w 0 4)))
  else .error .fixedBits

/-- Type 21 (R132). -/
def decodeType21 (k : Codes) (w : PmWord) : Decoded :=
  if fld w 5 11 = 0#11 then .ok (.modify (dagSelOf k (fld w 4 1)) (fld w 2 2) (fld w 0 2)) else .error .fixedBits

/-- Type 23 (R134). -/
def decodeType23 (k : Codes) (w : PmWord) : Decoded :=
  if fld w 11 5 = 2#5 ∧ fld w 0 8 = 0#8 then .ok (.divq (aluXopOf k (fld w 8 3))) else .error .fixedBits

/-- Type 24 (R135). -/
def decodeType24 (k : Codes) (w : PmWord) : Decoded :=
  if fld w 13 3 = 0#3 ∧ fld w 0 8 = 0#8 then
    match divsYopOf k (fld w 11 2) with
    | some y => .ok (.divs y (aluXopOf k (fld w 8 3)))
    | none => .error .forbiddenUse
  else .error .fixedBits

/-- Type 26 (R137). -/
def decodeType26 (k : Codes) (w : PmWord) : Decoded :=
  if fld w 5 11 = 0#11 then
    .ok (.stackControl (popOf k (fld w 4 1)) (popOf k (fld w 3 1)) (popOf k (fld w 2 1)) (stsOpOf k (fld w 0 2)))
  else if fld w 0 16 = 0x0060#16 then .ok .enaInts
  else if fld w 0 16 = 0x0040#16 then .ok .disInts
  else .error .fixedBits

/-- Type 27 (R138): the target's two high bits stand below its twelve low bits. -/
def decodeType27 (w : PmWord) : Decoded :=
  .ok (if bit w 0 then .callFlag (fld w 2 2 ++ fld w 4 12) (bit w 1)
       else .jumpFlag (fld w 2 2 ++ fld w 4 12) (bit w 1))

/-- Types 28 and 31 share a leading byte and are told apart by bit 15 (R139, R142). -/
def decodeType28And31 (k : Codes) (w : PmWord) : Decoded :=
  if bit w 15 then
    if fld w 4 11 = 0#11 then
      if fld w 0 4 = 0#4 then .ok .idle
      else
        match slowDivOf k (fld w 0 4) with
        | some n => .ok (.idleN n)
        | none => .error .fieldValue
    else .error .fixedBits
  else if fld w 12 3 = 0#3 then
    .ok (.flagOut (pinOpOf k (fld w 10 2)) (pinOpOf k (fld w 8 2)) (pinOpOf k (fld w 6 2)) (pinOpOf k (fld w 4 2))
      (condOf k (fld w 0 4)))
  else .error .fixedBits

/-- Type 29 (R140). -/
def decodeType29 (k : Codes) (w : PmWord) : Decoded :=
  .ok (if bit w 15 then .writeIo (fld w 4 11) (dregOf k (fld w 0 4)) else .readIo (fld w 4 11) (dregOf k (fld w 0 4)))

/-- The words whose leading byte alone selects the type (R161). -/
def decodeLeadingByte (k : Codes) (w : PmWord) : Decoded :=
  match (fld w 16 8).toNat with
  | 0x11 => decodeType13 k w
  | 0x10 => decodeType14 k w
  | 0x0F => decodeType15 k w
  | 0x0E => decodeType16 k w
  | 0x0D => decodeType17 k w
  | 0x0C => decodeType18 k w
  | 0x0B => decodeType19 k w
  | 0x0A => decodeType20 k w
  | 0x09 => decodeType21 k w
  | 0x08 => .ok (.unused (fld w 0 16))
  | 0x07 => decodeType23 k w
  | 0x06 => decodeType24 k w
  | 0x05 => if fld w 0 16 = 0#16 then .ok .satMr else .error .fixedBits
  | 0x04 => decodeType26 k w
  | 0x03 => decodeType27 w
  | 0x02 => decodeType28And31 k w
  | 0x01 => decodeType29 k w
  | _ => if fld w 0 16 = 0#16 then .ok .nop else .error .fixedBits

/-- The decoder, by the code tables `k` (R6). R111, R161: the fixed leading bits are a prefix code, tried here from
the shortest prefix to the longest. -/
def decodeWith (k : Codes) (w : PmWord) : Decoded :=
  if fld w 22 2 = 3#2 then decodeType1 k w
  else if fld w 21 3 = 5#3 then .ok (.writeDmImm (dagSelOf k (fld w 20 1)) (fld w 4 16) (fld w 2 2) (fld w 0 2))
  else if fld w 21 3 = 3#3 then decodeType4 k w
  else if fld w 20 4 = 8#4 then decodeWithReg k (fld w 18 2) (fld w 0 4) (.readDm (fld w 4 14))
  else if fld w 20 4 = 9#4 then decodeWithReg k (fld w 18 2) (fld w 0 4) (.writeDm (fld w 4 14))
  else if fld w 20 4 = 5#4 then decodeType5 k w
  else if fld w 20 4 = 4#4 then .ok (.loadDreg (fld w 4 16) (dregOf k (fld w 0 4)))
  else if fld w 20 4 = 3#4 then decodeWithReg k (fld w 18 2) (fld w 0 4) (.loadReg (fld w 4 14))
  else if fld w 19 5 = 5#5 then decodeType8 k w
  else if fld w 19 5 = 4#5 then decodeType9 k w
  else if fld w 19 5 = 3#5 then
    .ok (if bit w 18 then .call (fld w 4 14) (condOf k (fld w 0 4)) else .jump (fld w 4 14) (condOf k (fld w 0 4)))
  else if fld w 18 6 = 5#6 then .ok (.doUntil (fld w 4 14) (termOf (fld w 0 4)))
  else if fld w 17 7 = 9#7 then decodeType12 k w
  else decodeLeadingByte k w

/-- The decoder with the default tables. -/
def decode (w : PmWord) : Decoded := decodeWith standardCodes w

/-- The instruction of a row of spec/opcode_table.json whose bits are `w`, numbered as the table numbers them: every
instruction is one 24-bit word (R2), and bits the table does not give are zero. -/
def decodeTableWord (nbits w : Nat) : Option Instr :=
  match decode (BitVec.ofNat 24 (w % 2 ^ nbits)) with
  | .ok i => some i
  | .error _ => none

/-! The encoder. -/

/-- The ALU or MAC clause in bits 17 to 8 (R115, R143). -/
def putAluMac (k : Codes) : AluMac → PmWord
  | .alu f y x => put 17 1#1 ||| put 13 (aluFnCode f) ||| put 11 (aluYopCode k y) ||| put 8 (aluXopCode k x)
  | .mac f y x => put 13 (macFnCode f) ||| put 11 (macYopCode k y) ||| put 8 (macXopCode k x)

/-- Type 9, register form, ALU function (R120). -/
def encAluReg (k : Codes) (f : AluFn) (z : Dest) (y : AluYop) (x : AluXop) (c : Cond) : PmWord :=
  put 19 4#5 ||| put 18 (destCode k z) ||| putAluMac k (.alu f y x) ||| put 0 (condCode k c)

/-- Type 9, constant form (R120, R152). -/
def encAluConst (k : Codes) (f : AluFn) (z : Dest) (n : BitVec 4) (inv : Bool) (x : AluXop) (c : Cond) : PmWord :=
  put 19 4#5 ||| put 18 (destCode k z) ||| put 17 1#1 ||| put 13 (aluFnCode f)
    ||| put 11 ((constNumCode k n).extractLsb' 2 2)
    ||| put 8 (aluXopCode k x) ||| put 6 ((constNumCode k n).extractLsb' 0 2) ||| put 4 (boCode k inv)
    ||| put 0 (condCode k c)

/-- Type 9, register form, MAC function (R120). -/
def encMacReg (k : Codes) (f : MacFn) (z : Dest) (y : MacYop) (x : MacXop) (c : Cond) : PmWord :=
  put 19 4#5 ||| put 18 (destCode k z) ||| putAluMac k (.mac f y x) ||| put 0 (condCode k c)

/-- Type 9, squaring form (R120). -/
def encMacSqr (k : Codes) (f : MacFn) (z : Dest) (x : MacXop) (c : Cond) : PmWord :=
  put 19 4#5 ||| put 18 (destCode k z) ||| put 13 (macFnCode f) ||| put 8 (macXopCode k x) ||| put 4 1#4
    ||| put 0 (condCode k c)

/-- Type 16 (R127). -/
def encShiftCond (k : Codes) (f : ShiftFn) (x : ShiftXop) (c : Cond) : PmWord :=
  put 16 0x0E#8 ||| put 11 (shiftFnCode f) ||| put 8 (shiftXopCode k x) ||| put 0 (condCode k c)

/-- Type 15 (R126). -/
def encShiftImm (k : Codes) (f : ShiftFn) (x : ShiftXop) (e : BitVec 8) : PmWord :=
  put 16 0x0F#8 ||| put 11 (shiftFnCode f) ||| put 8 (shiftXopCode k x) ||| put 0 e

/-- The DREG, I and M fields of the indirect forms (bits 7 to 0). -/
def putAccess (k : Codes) (d : DReg) (i m : BitVec 2) : PmWord := put 4 (dregCode k d) ||| put 2 i ||| put 0 m

/-- The fields of a dual read but for its computation clause (R112). -/
def putDual (k : Codes) (pd : PmDest) (dd : DmDest) (pi pm di dm : BitVec 2) : PmWord :=
  put 22 3#2 ||| put 20 (pmDestCode k pd) ||| put 18 (dmDestCode k dd) ||| put 6 pi ||| put 4 pm ||| put 2 di
    ||| put 0 dm

/-- The 24-bit word of an instruction, by the code tables `k`. -/
def encodeWith (k : Codes) : Instr → PmWord
  | .aluPassY z y x c => encAluReg k .passY z y x c
  | .aluIncY z y x c => encAluReg k .incY z y x c
  | .aluAddC z y x c => encAluReg k .addC z y x c
  | .aluAdd z y x c => encAluReg k .add z y x c
  | .aluNotY z y x c => encAluReg k .notY z y x c
  | .aluNegY z y x c => encAluReg k .negY z y x c
  | .aluSubXYBorrow z y x c => encAluReg k .subXYBorrow z y x c
  | .aluSubXY z y x c => encAluReg k .subXY z y x c
  | .aluDecY z y x c => encAluReg k .decY z y x c
  | .aluSubYX z y x c => encAluReg k .subYX z y x c
  | .aluSubYXBorrow z y x c => encAluReg k .subYXBorrow z y x c
  | .aluNotX z y x c => encAluReg k .notX z y x c
  | .aluAnd z y x c => encAluReg k .andXY z y x c
  | .aluOr z y x c => encAluReg k .orXY z y x c
  | .aluXor z y x c => encAluReg k .xorXY z y x c
  | .aluAbs z y x c => encAluReg k .absX z y x c
  | .aluAddK z n inv x c => encAluConst k .add z n inv x c
  | .aluAddKC z n inv x c => encAluConst k .addC z n inv x c
  | .aluSubXK z n inv x c => encAluConst k .subXY z n inv x c
  | .aluSubXKBorrow z n inv x c => encAluConst k .subXYBorrow z n inv x c
  | .aluSubKX z n inv x c => encAluConst k .subYX z n inv x c
  | .aluSubKXBorrow z n inv x c => encAluConst k .subYXBorrow z n inv x c
  | .aluPassK z n inv x c => encAluConst k .passY z n inv x c
  | .aluPassKInc z n inv x c => encAluConst k .incY z n inv x c
  | .aluPassKDec z n inv x c => encAluConst k .decY z n inv x c
  | .aluTstbit z n x c => encAluConst k .andXY z n false x c
  | .aluClrbit z n x c => encAluConst k .andXY z n true x c
  | .aluSetbit z n x c => encAluConst k .orXY z n false x c
  | .aluOrNotBit z n x c => encAluConst k .orXY z n true x c
  | .aluTglbit z n x c => encAluConst k .xorXY z n false x c
  | .aluXorNotBit z n x c => encAluConst k .xorXY z n true x c
  | .aluNotK z n inv x c => encAluConst k .notY z n inv x c
  | .aluNegK z n inv x c => encAluConst k .negY z n inv x c
  | .aluNotXK z n inv x c => encAluConst k .notX z n inv x c
  | .aluAbsK z n inv x c => encAluConst k .absX z n inv x c
  | .divs y x => put 16 0x06#8 ||| put 11 (divsYopCode k y) ||| put 8 (aluXopCode k x)
  | .divq x => put 16 0x07#8 ||| put 11 2#5 ||| put 8 (aluXopCode k x)
  | .noneAlu f y x => put 19 5#5 ||| putAluMac k (.alu f y x) ||| put 4 10#4 ||| put 0 10#4
  | .macMulRnd z y x c => encMacReg k ⟨.mul, .rnd⟩ z y x c
  | .macMulSs z y x c => encMacReg k ⟨.mul, .ss⟩ z y x c
  | .macMulSu z y x c => encMacReg k ⟨.mul, .su⟩ z y x c
  | .macMulUs z y x c => encMacReg k ⟨.mul, .us⟩ z y x c
  | .macMulUu z y x c => encMacReg k ⟨.mul, .uu⟩ z y x c
  | .macAddRnd z y x c => encMacReg k ⟨.add, .rnd⟩ z y x c
  | .macAddSs z y x c => encMacReg k ⟨.add, .ss⟩ z y x c
  | .macAddSu z y x c => encMacReg k ⟨.add, .su⟩ z y x c
  | .macAddUs z y x c => encMacReg k ⟨.add, .us⟩ z y x c
  | .macAddUu z y x c => encMacReg k ⟨.add, .uu⟩ z y x c
  | .macSubRnd z y x c => encMacReg k ⟨.sub, .rnd⟩ z y x c
  | .macSubSs z y x c => encMacReg k ⟨.sub, .ss⟩ z y x c
  | .macSubSu z y x c => encMacReg k ⟨.sub, .su⟩ z y x c
  | .macSubUs z y x c => encMacReg k ⟨.sub, .us⟩ z y x c
  | .macSubUu z y x c => encMacReg k ⟨.sub, .uu⟩ z y x c
  | .macSqrMulRnd z x c => encMacSqr k ⟨.mul, .rnd⟩ z x c
  | .macSqrMulSs z x c => encMacSqr k ⟨.mul, .ss⟩ z x c
  | .macSqrMulUu z x c => encMacSqr k ⟨.mul, .uu⟩ z x c
  | .macSqrAddRnd z x c => encMacSqr k ⟨.add, .rnd⟩ z x c
  | .macSqrAddSs z x c => encMacSqr k ⟨.add, .ss⟩ z x c
  | .macSqrAddUu z x c => encMacSqr k ⟨.add, .uu⟩ z x c
  | .macSqrSubRnd z x c => encMacSqr k ⟨.sub, .rnd⟩ z x c
  | .macSqrSubSs z x c => encMacSqr k ⟨.sub, .ss⟩ z x c
  | .macSqrSubUu z x c => encMacSqr k ⟨.sub, .uu⟩ z x c
  | .satMr => put 16 0x05#8
  | .lshiftHi x c => encShiftCond k (.lshift .hi false) x c
  | .lshiftHiOr x c => encShiftCond k (.lshift .hi true) x c
  | .lshiftLo x c => encShiftCond k (.lshift .lo false) x c
  | .lshiftLoOr x c => encShiftCond k (.lshift .lo true) x c
  | .ashiftHi x c => encShiftCond k (.ashift .hi false) x c
  | .ashiftHiOr x c => encShiftCond k (.ashift .hi true) x c
  | .ashiftLo x c => encShiftCond k (.ashift .lo false) x c
  | .ashiftLoOr x c => encShiftCond k (.ashift .lo true) x c
  | .normHi x c => encShiftCond k (.norm .hi false) x c
  | .normHiOr x c => encShiftCond k (.norm .hi true) x c
  | .normLo x c => encShiftCond k (.norm .lo false) x c
  | .normLoOr x c => encShiftCond k (.norm .lo true) x c
  | .expHi x c => encShiftCond k .expHi x c
  | .expHix x c => encShiftCond k .expHix x c
  | .expLo x c => encShiftCond k .expLo x c
  | .expadj x c => encShiftCond k .expadj x c
  | .lshiftImmHi x e => encShiftImm k (.lshift .hi false) x e
  | .lshiftImmHiOr x e => encShiftImm k (.lshift .hi true) x e
  | .lshiftImmLo x e => encShiftImm k (.lshift .lo false) x e
  | .lshiftImmLoOr x e => encShiftImm k (.lshift .lo true) x e
  | .ashiftImmHi x e => encShiftImm k (.ashift .hi false) x e
  | .ashiftImmHiOr x e => encShiftImm k (.ashift .hi true) x e
  | .ashiftImmLo x e => encShiftImm k (.ashift .lo false) x e
  | .ashiftImmLoOr x e => encShiftImm k (.ashift .lo true) x e
  | .moveFromTop d => put 16 0x0D#8 ||| put 10 (rgpCode k d) ||| put 8 3#2 ||| put 4 (regCode k d) ||| put 0 15#4
  | .moveToTop r => put 16 0x0D#8 ||| put 10 3#2 ||| put 8 (rgpCode k r) ||| put 4 15#4 ||| put 0 (regCode k r)
  | .moveReg d r =>
      put 16 0x0D#8 ||| put 10 (rgpCode k d) ||| put 8 (rgpCode k r) ||| put 4 (regCode k d) ||| put 0 (regCode k r)
  | .loadDreg v d => put 20 4#4 ||| put 4 v ||| put 0 (dregCode k d)
  | .loadReg v d => put 20 3#4 ||| put 18 (rgpCode k d) ||| put 4 v ||| put 0 (regCode k d)
  | .readDm a d => put 20 8#4 ||| put 18 (rgpCode k d) ||| put 4 a ||| put 0 (regCode k d)
  | .writeDm a r => put 20 9#4 ||| put 18 (rgpCode k r) ||| put 4 a ||| put 0 (regCode k r)
  | .readDmInd g d i m => put 21 3#3 ||| put 20 (dagSelCode k g) ||| putAccess k d i m
  | .writeDmInd g r i m => put 21 3#3 ||| put 20 (dagSelCode k g) ||| put 19 1#1 ||| putAccess k r i m
  | .writeDmImm g v i m => put 21 5#3 ||| put 20 (dagSelCode k g) ||| put 4 v ||| put 2 i ||| put 0 m
  | .readPmInd d i m => put 20 5#4 ||| putAccess k d i m
  | .writePmInd r i m => put 20 5#4 ||| put 19 1#1 ||| putAccess k r i m
  | .readIo a d => put 16 0x01#8 ||| put 4 a ||| put 0 (dregCode k d)
  | .writeIo a r => put 16 0x01#8 ||| put 15 1#1 ||| put 4 a ||| put 0 (dregCode k r)
  | .jump a c => put 19 3#5 ||| put 4 a ||| put 0 (condCode k c)
  | .call a c => put 19 3#5 ||| put 18 1#1 ||| put 4 a ||| put 0 (condCode k c)
  | .jumpInd i c => put 16 0x0B#8 ||| put 6 i ||| put 0 (condCode k c)
  | .callInd i c => put 16 0x0B#8 ||| put 6 i ||| put 4 1#1 ||| put 0 (condCode k c)
  | .jumpFlag a fic => put 16 0x03#8 ||| put 4 (a.extractLsb' 0 12) ||| put 2 (a.extractLsb' 12 2) ||| putBit 1 fic
  | .callFlag a fic =>
      put 16 0x03#8 ||| put 4 (a.extractLsb' 0 12) ||| put 2 (a.extractLsb' 12 2) ||| putBit 1 fic ||| put 0 1#1
  | .flagOut fl2 fl1 fl0 fo c =>
      put 16 0x02#8 ||| put 10 (pinOpCode k fl2) ||| put 8 (pinOpCode k fl1) ||| put 6 (pinOpCode k fl0)
      ||| put 4 (pinOpCode k fo) ||| put 0 (condCode k c)
  | .rts c => put 16 0x0A#8 ||| put 0 (condCode k c)
  | .rti c => put 16 0x0A#8 ||| put 4 1#1 ||| put 0 (condCode k c)
  | .doUntil a t => put 18 5#6 ||| put 4 a ||| put 0 (termCode t)
  | .idle => put 16 0x02#8 ||| put 15 1#1
  | .idleN n => put 16 0x02#8 ||| put 15 1#1 ||| put 0 (slowDivCode k n)
  | .stackControl pp lp cp sp =>
      put 16 0x04#8 ||| put 4 (popCode k pp) ||| put 3 (popCode k lp) ||| put 2 (popCode k cp)
        ||| put 0 (stsOpCode k sp)
  | .enaInts => put 16 0x04#8 ||| put 0 0x0060#16
  | .disInts => put 16 0x04#8 ||| put 0 0x0040#16
  | .modeControl ti mm sat ol br sr gm =>
      put 16 0x0C#8 ||| put 14 (modeOpCode k ti) ||| put 12 (modeOpCode k mm) ||| put 10 (modeOpCode k sat)
      ||| put 8 (modeOpCode k ol) ||| put 6 (modeOpCode k br) ||| put 4 (modeOpCode k sr) ||| put 2 (modeOpCode k gm)
  | .modify g i m => put 16 0x09#8 ||| put 4 (dagSelCode k g) ||| put 2 i ||| put 0 m
  | .nop => 0#24
  | .compReadDm g z op d i m =>
      put 21 3#3 ||| put 20 (dagSelCode k g) ||| put 18 (destCode k z) ||| putAluMac k op ||| putAccess k d i m
  | .compReadPm z op d i m => put 20 5#4 ||| put 18 (destCode k z) ||| putAluMac k op ||| putAccess k d i m
  | .shiftReadDm g f x d i m =>
      put 17 9#7 ||| put 16 (dagSelCode k g) ||| put 11 (shiftFnCode f) ||| put 8 (shiftXopCode k x)
      ||| putAccess k d i m
  | .shiftReadPm f x d i m =>
      put 16 0x11#8 ||| put 11 (shiftFnCode f) ||| put 8 (shiftXopCode k x) ||| putAccess k d i m
  | .compMove z op d r =>
      put 19 5#5 ||| put 18 (destCode k z) ||| (match op with | some o => putAluMac k o | none => 0#24)
      ||| put 4 (dregCode k d) ||| put 0 (dregCode k r)
  | .shiftMove f x d r =>
      put 16 0x10#8 ||| put 11 (shiftFnCode f) ||| put 8 (shiftXopCode k x) ||| put 4 (dregCode k d)
        ||| put 0 (dregCode k r)
  | .compWriteDm g z op r i m =>
      put 21 3#3 ||| put 20 (dagSelCode k g) ||| put 19 1#1 ||| put 18 (destCode k z) ||| putAluMac k op
      ||| putAccess k r i m
  | .compWritePm z op r i m =>
      put 20 5#4 ||| put 19 1#1 ||| put 18 (destCode k z) ||| putAluMac k op ||| putAccess k r i m
  | .shiftWriteDm g f x r i m =>
      put 17 9#7 ||| put 16 (dagSelCode k g) ||| put 15 1#1 ||| put 11 (shiftFnCode f) ||| put 8 (shiftXopCode k x)
      ||| putAccess k r i m
  | .shiftWritePm f x r i m =>
      put 16 0x11#8 ||| put 15 1#1 ||| put 11 (shiftFnCode f) ||| put 8 (shiftXopCode k x) ||| putAccess k r i m
  | .dualRead pd dd pi pm di dm => putDual k pd dd pi pm di dm
  | .compDualRead pd dd op pi pm di dm => putDual k pd dd pi pm di dm ||| putAluMac k op
  | .unused u => put 16 0x08#8 ||| put 0 u

/-- The encoder with the default tables. -/
def encode (i : Instr) : PmWord := encodeWith standardCodes i

end Sys2Proof
end

