-- ==== Sys2Proof/Machine/Parameters.lean ====
section
/-! DEFINITION. Two settings of the OPEN parameters of 00_scope.md R6: the two interrupt tables of 60_exceptions.md
R444, and a configuration with each. Every other setting is a value of the same record `Config`. -/

namespace Sys2Proof.Config

/-- A source whose requests are latched (edge sensitive). -/
def edgeSource (name : String) (vector : Addr) (maskBit : Nat) (force clear : Option Nat) : IntSource :=
  { name := name, vector := vector, maskBit := maskBit, sensitivity := .edge, forceBit := force, clearBit := clear,
    timer := false }

/-- PRESUMED (R444, R442, general knowledge, log 13): the ADSP-2101/2105/2115/2111 column of the interrupt table. The
columns give no sensitivity; that of each source is the model's (log 29). -/
def intTable2101 : List IntSource :=
  [{ edgeSource "IRQ2" 0x0004#14 5 (some 11) (some 5) with sensitivity := .icntlBit 2 },
   edgeSource "SPORT0_transmit" 0x0008#14 4 (some 10) (some 4),
   edgeSource "SPORT0_receive" 0x000C#14 3 (some 9) (some 3),
   { edgeSource "SPORT1_transmit_or_IRQ1" 0x0010#14 2 (some 8) (some 2) with sensitivity := .icntlBit 1 },
   { edgeSource "SPORT1_receive_or_IRQ0" 0x0014#14 1 (some 7) (some 1) with sensitivity := .icntlBit 0 },
   { edgeSource "timer" 0x0018#14 0 (some 6) (some 0) with timer := true }]

/-- PRESUMED (R444, R442, general knowledge, log 13): the ADSP-2181 column of the interrupt table. The columns give no
sensitivity; that of each source is the model's (log 29). -/
def intTable2181 : List IntSource :=
  [{ edgeSource "IRQ2" 0x0004#14 9 (some 8) (some 7) with sensitivity := .icntlBit 2 },
   { edgeSource "IRQL1" 0x0008#14 8 none none with sensitivity := .level },
   { edgeSource "IRQL0" 0x000C#14 7 none none with sensitivity := .level },
   edgeSource "SPORT0_transmit" 0x0010#14 6 (some 9) (some 6),
   edgeSource "SPORT0_receive" 0x0014#14 5 (some 10) (some 5),
   edgeSource "IRQE" 0x0018#14 4 (some 11) (some 4),
   edgeSource "BDMA" 0x001C#14 3 (some 12) (some 3),
   { edgeSource "SPORT1_transmit_or_IRQ1" 0x0020#14 2 (some 13) (some 2) with sensitivity := .icntlBit 1 },
   { edgeSource "SPORT1_receive_or_IRQ0" 0x0024#14 1 (some 14) (some 1) with sensitivity := .icntlBit 0 },
   { edgeSource "timer" 0x0028#14 0 (some 15) (some 0) with timer := true }]

/-- DESIGN CHOICE (log 2): the configuration of the machine after reset. The member with every option (ADSP-218x),
all 16384 words of PM and DM populated as RAM as in 95_test_vectors.md part 3, all 2048 I/O locations populated,
and the defaults R6 suggests for the rest. -/
def adsp2181 : Config :=
  { member := .adsp218x
    pmMap := [{ base := 0, size := 16384, kind := .ram }]
    dmMap := [{ base := 0, size := 16384, kind := .ram }]
    ioMap := [{ base := 0, size := 2048, kind := .device }]
    cntrStackDepth := 4
    stsStackDepth := 12
    resetPc := 0
    intTable := intTable2181
    entryMask := []
    imaskBits := 10
    icntlBits := 5
    ifcBits := 16
    cntrFirstLoadPushes := true
    topPcPopInt := .fault
    endPc := none
    biasrnd := false
    codes := standardCodes }

/-- The other instantiation of R444: an ADSP-2101, without the extended instructions, I/O space and FL pins. -/
def adsp2101 : Config :=
  { adsp2181 with
    member := .adsp2101
    ioMap := []
    stsStackDepth := 7
    intTable := intTable2101
    imaskBits := 6
    ifcBits := 12 }

end Sys2Proof.Config
end

