-- ==== Sys2Proof/Machine/State.lean ====
section
/-! DEFINITION. The machine's state: every element of 10_state.md R20, as plain data, gathered by unit; the model's
own fields (the free-value and step counters, the event log, the transfer of the running instruction); the reasons a
step can stop; and the state after reset (70_reset_and_hazards.md R470). -/

namespace Sys2Proof.Machine

/-- One bank of the computation-unit registers; there are two (R25). -/
structure Bank where
  /-- ALU input, result and feedback registers (R21). -/
  ax0 : Word
  ax1 : Word
  ay0 : Word
  ay1 : Word
  ar : Word
  af : Word
  /-- MAC input, result (MR2:MR1:MR0) and feedback registers (R22). -/
  mx0 : Word
  mx1 : Word
  my0 : Word
  my1 : Word
  mr0 : Word
  mr1 : Word
  mr2 : BitVec 8
  mf : Word
  /-- Shifter input, exponent, block exponent and result (SR1:SR0) registers (R24). -/
  si : Word
  se : BitVec 8
  sb : BitVec 5
  sr0 : Word
  sr1 : Word
  deriving DecidableEq, Repr

/-- The data address generator registers; numbers 0 to 3 are DAG1's, 4 to 7 DAG2's (R26). -/
structure Dag where
  /-- I0 to I7, the index registers. -/
  i : Vector Addr 8
  /-- M0 to M7, the signed modify registers. -/
  m : Vector Addr 8
  /-- L0 to L7, the buffer lengths; 0 is linear addressing. -/
  l : Vector Addr 8
  deriving DecidableEq, Repr

/-- An entry of the loop stack: the loop's last address and its termination condition (R56). -/
structure LoopEntry where
  last : Addr
  term : Term
  deriving DecidableEq, Repr

/-- An entry of the status stack: the saved ASTAT, MSTAT and IMASK (R58). -/
structure StsEntry where
  astat : BitVec 8
  mstat : BitVec 7
  imask : Word
  deriving DecidableEq, Repr

/-- The program sequencer: PC, the loop counter and the four stacks, the top of each stack first (R41, R45, R55 to
R60). -/
structure Sequencer where
  pc : Addr
  cntr : Addr
  /-- Whether CNTR has been loaded since reset; it matters only with `CNTR_FIRST_LOAD_PUSHES` = false (R41). What sets
  it beside a load of CNTR is the model's choice (log 28). -/
  cntrLoaded : Bool
  pcStack : List Addr
  loopStack : List LoopEntry
  cntrStack : List Addr
  stsStack : List StsEntry
  /-- The sticky overflow bits PSO, LSO, CSO and SSO of SSTAT (R59). -/
  pcOvf : Bool
  loopOvf : Bool
  cntrOvf : Bool
  stsOvf : Bool
  /-- The delayed pop after `reg = TOPPCSTACK` (R60, R481). -/
  pcPopPending : Bool
  /-- The MODEL's own field: the target of a transfer of control the running instruction takes, `transfer` of
  44_program_flow.md R335; none between steps. -/
  transfer : Option Addr
  deriving DecidableEq, Repr

/-- The interrupt registers and latches (R39, R61 to R63). IMASK and ICNTL are held in 16 bits; only their low
`IMASK_BITS` and `ICNTL_BITS` bits are ever written. -/
structure IntUnit where
  imask : Word
  icntl : Word
  ints : Bool
  /-- irqPending: one latch for each source of the interrupt table, in the table's order. -/
  irqPending : List Bool
  idle : Bool
  deriving DecidableEq, Repr

/-- The flag pins and the serial port data registers (R40, R49). -/
structure Ports where
  /-- The latched state of the FI pin. -/
  fi : Bool
  fo : Bool
  fl0 : Bool
  fl1 : Bool
  fl2 : Bool
  rx0 : Word
  rx1 : Word
  tx0 : Word
  tx1 : Word
  deriving DecidableEq, Repr

/-- A memory of `n`-bit words: (address, word) pairs with strictly rising addresses. An unlisted address holds no
value (R85: a read of a word never written faults). The unit is the word: this machine has no bytes (R83, D1). -/
abbrev Memory (n : Nat) := List (Nat × BitVec n)

/-- The initial memory image (R472): partial maps from PM addresses to 24-bit words and from DM addresses to 16-bit
words. How it comes into the memories is outside the machine (log 14). -/
structure Image where
  pm : Memory 24
  dm : Memory 16
  deriving DecidableEq, Repr

/-- Program and data memory (R80, R81). -/
structure Spaces where
  pm : Memory 24
  dm : Memory 16
  /-- The MODEL's own field: the program memory address the last executed instruction wrote, if any, for the
  prefetch rule R100. -/
  pmWritten : Option Addr
  deriving DecidableEq, Repr

/-- A flag output pin (R49). -/
inductive Pin where
  | fo | fl0 | fl1 | fl2
  deriving DecidableEq, Repr

/-- The observable events at the machine's boundary (R88, R40, R345). -/
inductive Event where
  | pmRead (a : Addr) (v : PmWord)
  | pmWrite (a : Addr) (v : PmWord)
  | dmRead (a : Addr) (v : Word)
  | dmWrite (a : Addr) (v : Word)
  | ioRead (a : IoAddr) (v : Word)
  | ioWrite (a : IoAddr) (v : Word)
  | rxRead (port : Fin 2) (v : Word)
  | txWrite (port : Fin 2) (v : Word)
  | pin (p : Pin) (v : Bool)
  deriving DecidableEq, Repr

/-- The machine. A structure of units; each field's place in the spec is in INVENTORY.md. -/
structure State where
  /-- The implementation's parameters; no step changes them. -/
  cfg : Config
  /-- The two register banks (R25). -/
  primary : Bank
  secondary : Bank
  dag : Dag
  px : BitVec 8
  astat : BitVec 8
  mstat : BitVec 7
  seq : Sequencer
  int : IntUnit
  ports : Ports
  mem : Spaces
  /-- The MODEL's own field: the events so far, oldest first. -/
  events : List Event
  /-- The MODEL's own field: how many free values have been drawn. -/
  draws : Nat
  /-- The MODEL's own field: how many steps have been taken; the environment's inputs are sampled by it. -/
  steps : Nat
  deriving DecidableEq, Repr

/-- The four stacks (R55 to R58). -/
inductive StackId where
  | pc | loop | counter | status
  deriving DecidableEq, Repr

/-- The reasons a step can stop: the model faults of 60_exceptions.md R431. None is a hardware event. Every one is
SAFE: the machine may go on where the model stops, so nothing false can be proved by it. -/
inductive Fault where
  /-- Raised by the step, for a word that is not a defined encoding (R160), and by a meaning whose option the
  configured member lacks (R4, D3). Safe. -/
  | unusedEncoding (w : PmWord)
  /-- Raised by a fetch or a PM data read of a word never written (R85, D6). Safe. -/
  | unwrittenPM (a : Addr)
  /-- Raised by a DM read of a word never written (R85, D6). Safe. -/
  | unwrittenDM (a : Addr)
  /-- Raised by a fetch or a PM data access outside `PM_MAP`, or a write to its read-only part (R85 to R87). Safe. -/
  | unpopulatedPM (a : Addr)
  /-- Raised by a DM access outside `DM_MAP`, or a write to its read-only part (R85 to R87, R431). Safe. -/
  | unpopulatedDM (a : Addr)
  /-- Raised by an I/O access outside `IO_MAP` (R85, R86). Safe. -/
  | unpopulatedIO (a : IoAddr)
  /-- Raised by a push, other than DO UNTIL's, on a full stack (R59, D9); `sstat` is SSTAT after the push has set the
  stack's overflow bit. Safe. -/
  | stackOverflow (stack : StackId) (sstat : BitVec 8)
  /-- Raised by a pop, or a read of the top, of an empty stack (R59, D9). Safe. -/
  | stackUnderflow (stack : StackId)
  /-- Raised by a multifunction word whose two clauses write one register (R402, D11). Safe. -/
  | sameDestination (w : PmWord)
  /-- Raised by the sequencer for an instruction the model does not allow at a loop-end address (R337), and by a DO
  UNTIL that shares the current loop's end address (R353, D27). Safe. -/
  | loopEndRestriction
  /-- Raised when the instruction after `reg = TOPPCSTACK` uses the PC stack, or an interrupt is to be taken there
  (R481, D26). Safe. -/
  | pcPopHazard
  /-- Raised by the fetch of a word that the instruction before it wrote (R100, D20). Safe. -/
  | selfModifyHazard (a : Addr)
  deriving DecidableEq, Repr

/-- The reasons to refuse an instruction. -/
inductive Refusal where
  /-- Raised by `exec` for an instruction that has no meaning yet; no arm answers it. Safe. -/
  | notModelled (mnemonic : String)
  deriving DecidableEq, Repr

/-! Reset (R470). -/

/-- A register bank after reset. DESIGN CHOICE (log 1): the spec gives no value; zero. -/
def Bank.reset : Bank :=
  { ax0 := 0, ax1 := 0, ay0 := 0, ay1 := 0, ar := 0, af := 0
    mx0 := 0, mx1 := 0, my0 := 0, my1 := 0, mr0 := 0, mr1 := 0, mr2 := 0, mf := 0
    si := 0, se := 0, sb := 0, sr0 := 0, sr1 := 0 }

/-- The image that holds no word. -/
def Image.empty : Image := { pm := [], dm := [] }

/-- The machine right after reset, for any configuration and any initial memory image (R470, R472); execution starts
with `step` at `RESET_PC`. MSTAT, INTS and the overflow bits are the spec's; the stacks are empty by its decision D7;
ASTAT and IMASK are 0 from its general knowledge; the values it leaves `unwritten` are zero, DESIGN CHOICE (log 1). -/
def State.resetWith (cfg : Config) (image : Image) : State :=
  { cfg := cfg
    primary := Bank.reset
    secondary := Bank.reset
    dag := { i := Vector.replicate 8 0, m := Vector.replicate 8 0, l := Vector.replicate 8 0 }
    px := 0
    astat := 0
    mstat := 0
    seq :=
      { pc := cfg.resetPc, cntr := 0, cntrLoaded := false
        pcStack := [], loopStack := [], cntrStack := [], stsStack := []
        pcOvf := false, loopOvf := false, cntrOvf := false, stsOvf := false
        pcPopPending := false, transfer := none }
    int := { imask := 0, icntl := 0, ints := true, irqPending := cfg.intTable.map fun _ => false, idle := false }
    ports :=
      { fi := false, fo := false, fl0 := false, fl1 := false, fl2 := false, rx0 := 0, rx1 := 0, tx0 := 0, tx1 := 0 }
    mem := { pm := image.pm, dm := image.dm, pmWritten := none }
    events := []
    draws := 0
    steps := 0 }

/-- The machine right after reset, in the configuration of log 2 and with nothing loaded (log 14). -/
def State.reset : State := State.resetWith Config.adsp2181 Image.empty

end Sys2Proof.Machine
end

