-- ==== Sys2Proof/Machine/Memory.lean ====
section
/-! DEFINITION. Reading and writing one word of a memory, its canonical form, and the address maps
(20_memory.md R80 to R87). -/

namespace Sys2Proof.Machine

/-- The word at address `a`, if it has been written (R85, log 8). -/
def Memory.read {n : Nat} : Memory n → Nat → Option (BitVec n)
  | [], _ => none
  | (b, v) :: rest, a => if a = b then some v else Memory.read rest a

/-- The memory with the word at address `a` replaced; the addresses keep rising. -/
def Memory.write {n : Nat} : Memory n → Nat → BitVec n → Memory n
  | [], a, v => [(a, v)]
  | (b, w) :: rest, a, v =>
    if a < b then (a, v) :: (b, w) :: rest
    else if a = b then (a, v) :: rest
    else (b, w) :: Memory.write rest a v

/-- The addresses rise strictly from `lo` on and are 14-bit addresses (R80, R81). -/
def Memory.sortedFrom {n : Nat} : Nat → Memory n → Bool
  | _, [] => true
  | lo, (b, _) :: rest => decide (lo ≤ b) && decide (b < 2 ^ 14) && Memory.sortedFrom (b + 1) rest

/-- The canonical form: strictly rising 14-bit addresses. An unlisted address holds no value, so no entry can repeat
what an unlisted address reads as, and equal memories are equal data. -/
def Memory.wf {n : Nat} (m : Memory n) : Bool := Memory.sortedFrom 0 m

/-- Whether address `a` lies in the range (R87). -/
def regionHas (a : Nat) (r : Region) : Bool := decide (r.base ≤ a) && decide (a < r.base + r.size)

/-- The kind of the first range that holds address `a`; none outside the map (R87). -/
def regionKind (map : List Region) (a : Nat) : Option RegionKind :=
  (map.find? (regionHas a)).map fun r => r.kind

/-- Every word of the memory stands at a populated address (R87). -/
def Memory.within {n : Nat} (map : List Region) (m : Memory n) : Bool := m.all fun e => (regionKind map e.1).isSome

/-- An initial image as R472 wants it: partial maps (in canonical form) inside `PM_MAP` and `DM_MAP`. -/
def Image.fits (cfg : Config) (image : Image) : Bool :=
  (image.pm.wf && image.pm.within cfg.pmMap) && (image.dm.wf && image.dm.within cfg.dmMap)

end Sys2Proof.Machine
end

