-- ==== Sys2Proof/Machine/Operands.lean ====
section
/-! DEFINITION. The operands of an instruction: the modes, the active register bank, the 16-bit bus value of each
register, the X and Y operands of the three computation units, the constants, and the registers a field selects
(10_state.md R25 to R31, 30_encoding.md R146 to R154). Nothing here changes the state. -/

namespace Sys2Proof.Machine

/-! The mode bits of MSTAT (10_state.md R35). -/

/-- MSTAT.SEC_REG: the secondary bank is active (R25). -/
def secReg (s : State) : Bool := s.mstat.getLsbD 0
/-- MSTAT.BIT_REV: DAG1 addresses are output bit-reversed (R93). -/
def bitRev (s : State) : Bool := s.mstat.getLsbD 1
/-- MSTAT.AV_LATCH: AV is sticky (R36). -/
def avLatch (s : State) : Bool := s.mstat.getLsbD 2
/-- MSTAT.AR_SAT: AR saturates on ALU overflow (R172). -/
def arSat (s : State) : Bool := s.mstat.getLsbD 3
/-- MSTAT.M_MODE: integer mode, no left shift between product and MR (R231). -/
def mMode (s : State) : Bool := s.mstat.getLsbD 4
/-- MSTAT.TIMER: the timer runs, so its interrupt can be requested (R452). -/
def timerOn (s : State) : Bool := s.mstat.getLsbD 5

/-! The flags of ASTAT (10_state.md R32). -/

/-- AZ, ALU result zero. -/
def flagAz (s : State) : Bool := s.astat.getLsbD 0
/-- AN, ALU result negative. -/
def flagAn (s : State) : Bool := s.astat.getLsbD 1
/-- AV, ALU overflow. -/
def flagAv (s : State) : Bool := s.astat.getLsbD 2
/-- AC, ALU carry. -/
def flagAc (s : State) : Bool := s.astat.getLsbD 3
/-- AS, ALU X input sign. -/
def flagAs (s : State) : Bool := s.astat.getLsbD 4
/-- AQ, ALU quotient bit. -/
def flagAq (s : State) : Bool := s.astat.getLsbD 5
/-- MV, MAC overflow. -/
def flagMv (s : State) : Bool := s.astat.getLsbD 6
/-- SS, shifter input sign. -/
def flagSs (s : State) : Bool := s.astat.getLsbD 7

/-- The bank MSTAT.SEC_REG selects: what a bare register name means in every rule (R25). -/
def activeBank (s : State) : Bank := if secReg s then s.secondary else s.primary

/-- MR = MR2:MR1:MR0 (R22). -/
def mrOf (b : Bank) : Acc := b.mr2 ++ (b.mr1 ++ b.mr0)

/-- SR = SR1:SR0 (R24). -/
def srOf (b : Bank) : BitVec 32 := b.sr1 ++ b.sr0

/-- The bus value of a data register: SE and MR2 are sign-extended (R30). -/
def dregVal (d : DReg) (b : Bank) : Word :=
  match d with
  | .ax0 => b.ax0
  | .ax1 => b.ax1
  | .mx0 => b.mx0
  | .mx1 => b.mx1
  | .ay0 => b.ay0
  | .ay1 => b.ay1
  | .my0 => b.my0
  | .my1 => b.my1
  | .si => b.si
  | .se => b.se.signExtend 16
  | .ar => b.ar
  | .mr0 => b.mr0
  | .mr1 => b.mr1
  | .mr2 => b.mr2.signExtend 16
  | .sr0 => b.sr0
  | .sr1 => b.sr1

/-- The ALU X operand (R173). -/
def aluX (x : AluXop) (b : Bank) : Word :=
  match x with
  | .ax0 => b.ax0
  | .ax1 => b.ax1
  | .ar => b.ar
  | .mr0 => b.mr0
  | .mr1 => b.mr1
  | .mr2 => b.mr2.signExtend 16
  | .sr0 => b.sr0
  | .sr1 => b.sr1

/-- The ALU Y operand (R173). -/
def aluY (y : AluYop) (b : Bank) : Word :=
  match y with
  | .ay0 => b.ay0
  | .ay1 => b.ay1
  | .af => b.af
  | .zero => 0

/-- The constant of a type 9 constant form: `1 << n`, or its complement (30_encoding.md R152). -/
def aluConst (n : BitVec 4) (inv : Bool) : Word :=
  let k : Word := 1#16 <<< n.toNat
  if inv then ~~~k else k

/-- The Y operand of DIVS (R196). -/
def divsY (y : DivsYop) (b : Bank) : Word :=
  match y with
  | .ay1 => b.ay1
  | .af => b.af

/-- The MAC X operand (R232). -/
def macX (x : MacXop) (b : Bank) : Word :=
  match x with
  | .mx0 => b.mx0
  | .mx1 => b.mx1
  | .ar => b.ar
  | .mr0 => b.mr0
  | .mr1 => b.mr1
  | .mr2 => b.mr2.signExtend 16
  | .sr0 => b.sr0
  | .sr1 => b.sr1

/-- The MAC Y operand (R232). -/
def macY (y : MacYop) (b : Bank) : Word :=
  match y with
  | .my0 => b.my0
  | .my1 => b.my1
  | .mf => b.mf
  | .zero => 0

/-- The shifter X operand (R264). -/
def shiftX (x : ShiftXop) (b : Bank) : Word :=
  match x with
  | .si => b.si
  | .ar => b.ar
  | .mr0 => b.mr0
  | .mr1 => b.mr1
  | .mr2 => b.mr2.signExtend 16
  | .sr0 => b.sr0
  | .sr1 => b.sr1

/-- The number of the I or M register a 2-bit field selects: those of DAG1 are 0 to 3, of DAG2 4 to 7 (R92, R154).
DEDUCED (log 3): the I and M codes are fixed and no part of `CODES`. -/
def dagIdx (g : DagSel) (n : BitVec 2) : DagIdx :=
  match g with
  | .dag1 => Fin.ofNat 8 n.toNat
  | .dag2 => Fin.ofNat 8 (4 + n.toNat)

/-- The data register DD names (R153). -/
def dmDestReg (d : DmDest) : DReg :=
  match d with
  | .ax0 => .ax0
  | .ax1 => .ax1
  | .mx0 => .mx0
  | .mx1 => .mx1

/-- The data register PD names (R153). -/
def pmDestReg (d : PmDest) : DReg :=
  match d with
  | .ay0 => .ay0
  | .ay1 => .ay1
  | .my0 => .my0
  | .my1 => .my1

/-- `rev14`: bit i swaps with bit 13 - i (R93). -/
def rev14 (a : Addr) : Addr := a.reverse

/-- The address an indirect access sends to memory (R90, R93). -/
def addrOut (s : State) (a : DagIdx) : Addr :=
  if bitRev s && decide (a.val < 4) then rev14 s.dag.i[a] else s.dag.i[a]

end Sys2Proof.Machine
end

