-- ==== Sys2Proof/Machine/Flags.lean ====
section
/-! DEFINITION. The pure results and flag computations of the three computation units: the ALU step and its status
(40_alu.md R170 to R172, R196, R197), the MAC step with rounding and MV (41_mac.md R230 to R234), the shifter array
and the exponent detector (42_shifter.md R260 to R272), and how flags are put into ASTAT (10_state.md R32). -/

namespace Sys2Proof.Machine

/-- The byte `v` with bit `k` set to `b`. -/
def putFlag (v : BitVec 8) (k : Nat) (b : Bool) : BitVec 8 :=
  if b then v ||| (1#8 <<< k) else v &&& ~~~(1#8 <<< k)

/-- ASTAT with AZ, AN, AV, AC (bits 0 to 3) replaced and the other bits kept. -/
def putAluFlags (v : BitVec 8) (f : BitVec 4) : BitVec 8 := v.extractLsb' 4 4 ++ f

/-- The four ALU flags as bits 0 to 3. -/
def aluFlagBits (z n o c : Bool) : BitVec 4 :=
  BitVec.ofBool c ++ (BitVec.ofBool o ++ (BitVec.ofBool n ++ BitVec.ofBool z))

/-- What an ALU function computes: the result, the computed overflow and the computed carry (R170). -/
structure AluOut where
  r : Word
  ov : Bool
  carry : Bool
  deriving DecidableEq, Repr

/-- `add17` (R170): the 17-bit sum with carry and overflow. -/
def add17 (a b : Word) (cin : Bool) : AluOut :=
  let sum := a.toNat + b.toNat + cin.toNat
  let r := BitVec.ofNat 16 sum
  { r := r, ov := a.msb == b.msb && r.msb != a.msb, carry := sum.testBit 16 }

/-- A function that computes no overflow and no carry. -/
def aluLogic (r : Word) : AluOut := { r := r, ov := false, carry := false }

/-- `alu` (R170): the function AMF selects, on operands `x` and `y` and the carry flag `c`. -/
def aluFn (f : AluFn) (x y : Word) (c : Bool) : AluOut :=
  match f with
  | .passY => aluLogic y
  | .incY => add17 y 0 true
  | .addC => add17 x y c
  | .add => add17 x y false
  | .notY => aluLogic (~~~y)
  | .negY => add17 0 (~~~y) true
  | .subXYBorrow => add17 x (~~~y) c
  | .subXY => add17 x (~~~y) true
  | .decY => add17 y 0xFFFF#16 false
  | .subYX => add17 y (~~~x) true
  | .subYXBorrow => add17 y (~~~x) c
  | .notX => aluLogic (~~~x)
  | .andXY => aluLogic (x &&& y)
  | .orXY => aluLogic (x ||| y)
  | .xorXY => aluLogic (x ^^^ y)
  | .absX => { r := if x.msb then -x else x, ov := x == 0x8000#16, carry := false }

/-- `setAluFlags` (R171): AZ and AN from the unsaturated result, AV sticky under AV_LATCH. -/
def aluStatus (astat : BitVec 8) (latch : Bool) (o : AluOut) : BitVec 8 :=
  putAluFlags astat (aluFlagBits (o.r == 0) o.r.msb ((latch && astat.getLsbD 2) || o.ov) o.carry)

/-- The status an ALU function writes: the four flags, and AS for ABS (R171, R174, R193). -/
def aluStatusOf (f : AluFn) (x : Word) (astat : BitVec 8) (latch : Bool) (o : AluOut) : BitVec 8 :=
  if f = .absX then putFlag (aluStatus astat latch o) 4 x.msb else aluStatus astat latch o

/-- Full scale in the direction the carry tells (R172). -/
def satValue (carry : Bool) : Word := if carry then 0x8000#16 else 0x7FFF#16

/-- `satAR` (R172). -/
def satAr (o : AluOut) : Word := if o.ov then satValue o.carry else o.r

/-- What a divide step writes: AF, AY0 and AQ (R196, R197). -/
structure DivOut where
  af : Word
  ay0 : Word
  q : Bool
  deriving DecidableEq, Repr

/-- The step of DIVS (R196). -/
def divsStep (x y ay0 : Word) : DivOut :=
  let q := x.msb ^^ y.msb
  { af := y.extractLsb' 0 15 ++ BitVec.ofBool ay0.msb, ay0 := ay0.extractLsb' 0 15 ++ BitVec.ofBool q, q := q }

/-- The step of DIVQ (R197). -/
def divqStep (x af ay0 : Word) (aqOld : Bool) : DivOut :=
  let r := if aqOld then af + x else af - x
  let q := r.msb ^^ x.msb
  { af := r.extractLsb' 0 15 ++ BitVec.ofBool ay0.msb, ay0 := ay0.extractLsb' 0 15 ++ BitVec.ofBool (!q), q := q }

/-! The multiplier. -/

/-- The X operand as the format reads it (R230). -/
def macXs (f : MacFmt) (x : Word) : Int :=
  match f with
  | .rnd | .ss | .su => x.toInt
  | .us | .uu => x.toNat

/-- The Y operand as the format reads it (R230). -/
def macYs (f : MacFmt) (y : Word) : Int :=
  match f with
  | .rnd | .ss | .us => y.toInt
  | .su | .uu => y.toNat

/-- The product, shifted left one bit in fractional mode (R230, R231). -/
def macProduct (f : MacFmt) (integer : Bool) (x y : Word) : Int :=
  let p := macXs f x * macYs f y
  if integer then p else 2 * p

/-- `round40` (R233): add 1 at bit 15, and when exactly half way and unbiased clear bit 16. -/
def round40 (biased : Bool) (res : Acc) : Acc :=
  let r := res + 0x8000#40
  if res.extractLsb' 0 16 = 0x8000#16 ∧ biased = false then r &&& ~~~(1#40 <<< 16) else r

/-- The unrounded result of a MAC step, modulo 2^40 (R230). -/
def macSum (op : MacOp) (acc : Acc) (p : Int) : Acc :=
  match op with
  | .mul => BitVec.ofInt 40 p
  | .add => BitVec.ofInt 40 (acc.toInt + p)
  | .sub => BitVec.ofInt 40 (acc.toInt - p)

/-- `macStep` (R230): the 40-bit result. -/
def macStep (f : MacFn) (integer biased : Bool) (acc : Acc) (x y : Word) : Acc :=
  let res := macSum f.op acc (macProduct f.fmt integer x y)
  if f.fmt = .rnd then round40 biased res else res

/-- MV: the upper 9 bits are not all one or zero (R230, R234). -/
def macOverflow (res : Acc) : Bool :=
  let top := res.extractLsb' 31 9
  !(top == 0#9 || top == 0x1FF#9)

/-! The shifter. -/

/-- `shiftField` (R260): the 16-bit input, extended with the bit `e`, displaced by the code `c` in the 32-bit field. -/
def shiftField (x : Word) (c : Int) (ref : HiLo) (e : Bool) : BitVec 32 :=
  let w : Int := if e then (x.toNat : Int) - 65536 else x.toNat
  let p : Int := match ref with
    | .hi => 16 + c
    | .lo => c
  BitVec.ofInt 32 (if 0 ≤ p then w * 2 ^ p.toNat else w / 2 ^ (-p).toNat)

/-- How many of the top bits of the low `n` bits of `x` in a row equal `b`. -/
def leadingRun (b : Bool) (x : Word) : Nat → Nat
  | 0 => 0
  | n + 1 => if x.getLsbD n == b then leadingRun b x n + 1 else 0

/-- The number of consecutive most significant bits of `x` that equal `b`, 0 to 16 (R268, R272). -/
def leadingBits (b : Bool) (x : Word) : Nat := leadingRun b x 16

/-- `expHI` (R272): minus the number of redundant sign bits, 0 down to -15. -/
def expHiOf (x : Word) : Int := 1 - (leadingBits x.msb x : Int)

/-- The value EXP (LO) gives SE (R268). -/
def expLoOf (se : BitVec 8) (sign : Bool) (x : Word) : BitVec 8 :=
  if se.toInt = -15 then BitVec.ofInt 8 (-15 - (leadingBits sign x : Int)) else se

end Sys2Proof.Machine
end

