-- ==== Sys2Proof/Machine/Ops.lean ====
section
/-! DEFINITION. The named operations every meaning is written over: conditions (10_state.md R47, R48), the register
banks, memory access (20_memory.md R85 to R88), the address generators (R90 to R93), the stacks (10_state.md R55 to
R60), reading and writing registers (R30, R31, 43_move.md R303), interrupt entry and return (60_exceptions.md R443,
44_program_flow.md R341). -/

namespace Sys2Proof.Machine

/-- The result of an operation that can stop the machine with a model fault. -/
abbrev Result (α : Type) := Except Fault α

/-- What a meaning answers. -/
abbrev Answer := Host.Outcome State Fault Refusal

/-- A result as the answer of a step. -/
def answer : Result State → Answer
  | .ok s => .next s
  | .error f => .fault f

/-! Updates of one part of the state. -/

/-- The state with the active bank replaced; the other bank keeps its values (R25). -/
def setBank (b : Bank) (s : State) : State :=
  if secReg s then { s with secondary := b } else { s with primary := b }

/-- The state with ASTAT replaced. -/
def setAstat (v : BitVec 8) (s : State) : State := { s with astat := v }

/-- The state with MSTAT replaced. -/
def setMstat (v : BitVec 7) (s : State) : State := { s with mstat := v }

/-- The state with PX replaced. -/
def setPx (v : BitVec 8) (s : State) : State := { s with px := v }

/-- The state with an event appended (R88). -/
def emit (e : Event) (s : State) : State := { s with events := s.events ++ [e] }

/-- The state after one more free value has been drawn (log 12). -/
def countDraw (s : State) : State := { s with draws := s.draws + 1 }

/-- The state with I register `a` replaced. -/
def setI (a : DagIdx) (v : Addr) (s : State) : State := { s with dag := { s.dag with i := s.dag.i.set a v } }

/-- The state with M register `b` replaced. -/
def setM (b : DagIdx) (v : Addr) (s : State) : State := { s with dag := { s.dag with m := s.dag.m.set b v } }

/-- The state with L register `a` replaced. -/
def setL (a : DagIdx) (v : Addr) (s : State) : State := { s with dag := { s.dag with l := s.dag.l.set a v } }

/-- The state with CNTR replaced, by a decrement (R48). -/
def setCntr (v : Addr) (s : State) : State := { s with seq := { s.seq with cntr := v } }

/-- The state with PC replaced. -/
def setPc (a : Addr) (s : State) : State := { s with seq := { s.seq with pc := a } }

/-- The state in which the running instruction transfers control to `a` (R335). -/
def transferTo (a : Addr) (s : State) : State := { s with seq := { s.seq with transfer := some a } }

/-- The state with the interrupt unit replaced. -/
def setInt (u : IntUnit) (s : State) : State := { s with int := u }

/-- The state with the ports replaced. -/
def setPorts (p : Ports) (s : State) : State := { s with ports := p }

/-! Conditions. -/

/-- CNTR after it is decremented, modulo 2^14 (R48). -/
def cntrDown (s : State) : Addr := s.seq.cntr - 1

/-- `cond(c)`: whether the condition holds (R47, R48). -/
def condHolds (c : Cond) (s : State) : Bool :=
  match c with
  | .eq => flagAz s
  | .ne => !flagAz s
  | .gt => !((flagAn s ^^ flagAv s) || flagAz s)
  | .le => (flagAn s ^^ flagAv s) || flagAz s
  | .lt => flagAn s ^^ flagAv s
  | .ge => !(flagAn s ^^ flagAv s)
  | .av => flagAv s
  | .notAv => !flagAv s
  | .ac => flagAc s
  | .notAc => !flagAc s
  | .neg => flagAs s
  | .pos => !flagAs s
  | .mv => flagMv s
  | .notMv => !flagMv s
  | .notCe => cntrDown s != 0
  | .always => true

/-- The state after a condition has been evaluated: NOT CE decrements CNTR (R48, D10). -/
def afterCond (c : Cond) (s : State) : State :=
  if c = .notCe then setCntr (cntrDown s) s else s

/-- Evaluate the condition and, if it is true, perform the operation; otherwise a no-operation (R174, R336). -/
def ifCond (c : Cond) (op : State → Result State) (s : State) : Result State :=
  if condHolds c s then op (afterCond c s) else .ok (afterCond c s)

/-- `term(t)`: whether the termination condition holds (R47, R48, R351). -/
def termHolds (t : Term) (s : State) : Bool :=
  match t with
  | .eq => flagAz s
  | .ne => !flagAz s
  | .gt => !((flagAn s ^^ flagAv s) || flagAz s)
  | .le => (flagAn s ^^ flagAv s) || flagAz s
  | .lt => flagAn s ^^ flagAv s
  | .ge => !(flagAn s ^^ flagAv s)
  | .av => flagAv s
  | .notAv => !flagAv s
  | .ac => flagAc s
  | .notAc => !flagAc s
  | .neg => flagAs s
  | .pos => !flagAs s
  | .mv => flagMv s
  | .notMv => !flagMv s
  | .ce => cntrDown s == 0
  | .forever => false

/-- The state after a termination condition has been evaluated: CE decrements CNTR (R48, R351). -/
def afterTerm (t : Term) (s : State) : State :=
  if t = .ce then setCntr (cntrDown s) s else s

/-! Memory access. -/

/-- `MemRead(DM, a, 16)` (R85): the word, and the state after the read. -/
def readDm (a : Addr) (s : State) : Result (Word × State) :=
  match regionKind s.cfg.dmMap a.toNat with
  | none => .error (.unpopulatedDM a)
  | some .device =>
    let v := Config.dmInput s.draws a
    .ok (v, emit (.dmRead a v) (countDraw s))
  | some .ram | some .rom =>
    match s.mem.dm.read a.toNat with
    | none => .error (.unwrittenDM a)
    | some v => .ok (v, s)

/-- `MemWrite(DM, a, 16, v)` (R86). -/
def writeDm (a : Addr) (v : Word) (s : State) : Result State :=
  match regionKind s.cfg.dmMap a.toNat with
  | none | some .rom => .error (.unpopulatedDM a)
  | some .device => .ok (emit (.dmWrite a v) s)
  | some .ram => .ok { s with mem := { s.mem with dm := s.mem.dm.write a.toNat v } }

/-- `MemRead(PM, a, 24)` (R85); a `device` range of PM is read as one of DM is (R87, R98, log 15). -/
def readPm (a : Addr) (s : State) : Result (PmWord × State) :=
  match regionKind s.cfg.pmMap a.toNat with
  | none => .error (.unpopulatedPM a)
  | some .device =>
    let v := Config.pmInput s.draws a
    .ok (v, emit (.pmRead a v) (countDraw s))
  | some .ram | some .rom =>
    match s.mem.pm.read a.toNat with
    | none => .error (.unwrittenPM a)
    | some v => .ok (v, s)

/-- `MemWrite(PM, a, 24, v)` (R86); the address is remembered for the prefetch rule (R100). -/
def writePm (a : Addr) (v : PmWord) (s : State) : Result State :=
  match regionKind s.cfg.pmMap a.toNat with
  | none | some .rom => .error (.unpopulatedPM a)
  | some .device => .ok (emit (.pmWrite a v) { s with mem := { s.mem with pmWritten := some a } })
  | some .ram => .ok { s with mem := { s.mem with pm := s.mem.pm.write a.toNat v, pmWritten := some a } }

/-- `MemRead(IO, a, 16)` (R82, R85): every location is a device. -/
def readIoSpace (a : IoAddr) (s : State) : Result (Word × State) :=
  match regionKind s.cfg.ioMap a.toNat with
  | none => .error (.unpopulatedIO a)
  | some _ =>
    let v := Config.ioInput s.draws a
    .ok (v, emit (.ioRead a v) (countDraw s))

/-- `MemWrite(IO, a, 16, v)` (R82, R86). -/
def writeIoSpace (a : IoAddr) (v : Word) (s : State) : Result State :=
  match regionKind s.cfg.ioMap a.toNat with
  | none => .error (.unpopulatedIO a)
  | some _ => .ok (emit (.ioWrite a v) s)

/-! The address generators (R91). -/

/-- The smallest `n` with `2^n ≥ L`. -/
def bufferBits (len : Nat) : Nat := ((List.range 15).find? fun n => decide (len ≤ 2 ^ n)).getD 14

/-- The base address of the circular buffer that holds `i`: `i` with its low bits cleared. -/
def bufferBase (i len : Addr) : Nat :=
  let n := bufferBits len.toNat
  i.toNat / 2 ^ n * 2 ^ n

/-- The precondition of the modulus logic: linear, or `i` inside the buffer and `|m|` at most its length (R91). -/
def modifyDefined (i m len : Addr) : Bool :=
  len == 0 || (decide (i.toNat < bufferBase i len + len.toNat) && decide (m.toInt.natAbs ≤ len.toNat))

/-- `modify` inside its precondition: `i + m`, wrapped into the buffer when the length is not zero (R91). -/
def modifyIndex (i m len : Addr) : Addr :=
  if len = 0 then i + m
  else
    let base : Int := bufferBase i len
    let t : Int := (i.toNat : Int) + m.toInt
    BitVec.ofInt 14
      (if t < base then t + len.toNat else if base + len.toNat ≤ t then t - len.toNat else t)

/-- `I[a] <- modify(a, b)` (R90, R91); outside the precondition the new value is free (U11). -/
def postModify (a b : DagIdx) (s : State) : State :=
  if modifyDefined s.dag.i[a] s.dag.m[b] s.dag.l[a] then
    setI a (modifyIndex s.dag.i[a] s.dag.m[b] s.dag.l[a]) s
  else setI a (Config.freeIndex s.draws) (countDraw s)

/-! The stacks (R55 to R59). -/

/-- PC stack depth (R6, R55). -/
def pcStackDepth : Nat := 16

/-- Loop stack depth (R6, R56). -/
def loopStackDepth : Nat := 4

/-- SSTAT, a function of the stacks (R37, R59). -/
def sstat (s : State) : BitVec 8 :=
  BitVec.ofBool s.seq.loopOvf ++ (BitVec.ofBool s.seq.loopStack.isEmpty ++
    (BitVec.ofBool s.seq.stsOvf ++ (BitVec.ofBool s.seq.stsStack.isEmpty ++
      (BitVec.ofBool s.seq.cntrOvf ++ (BitVec.ofBool s.seq.cntrStack.isEmpty ++
        (BitVec.ofBool s.seq.pcOvf ++ BitVec.ofBool s.seq.pcStack.isEmpty))))))

/-- The instruction after `reg = TOPPCSTACK` may not use the PC stack (R481). -/
def guardPcStack (s : State) : Result Unit :=
  if s.seq.pcPopPending then .error .pcPopHazard else .ok ()

/-- Push the PC stack (R55, R59). -/
def pushPc (a : Addr) (s : State) : Result State :=
  if pcStackDepth ≤ s.seq.pcStack.length then
    .error (.stackOverflow .pc (sstat { s with seq := { s.seq with pcOvf := true } }))
  else .ok { s with seq := { s.seq with pcStack := a :: s.seq.pcStack } }

/-- Pop the PC stack (R55, R59). -/
def popPc (s : State) : Result (Addr × State) :=
  match s.seq.pcStack with
  | [] => .error (.stackUnderflow .pc)
  | a :: rest => .ok (a, { s with seq := { s.seq with pcStack := rest } })

/-- The top of the PC stack, read and not popped (R351, R374). -/
def topPc (s : State) : Result Addr :=
  match s.seq.pcStack with
  | [] => .error (.stackUnderflow .pc)
  | a :: _ => .ok a

/-- Pop the loop stack (R56, R59). -/
def popLoop (s : State) : Result (LoopEntry × State) :=
  match s.seq.loopStack with
  | [] => .error (.stackUnderflow .loop)
  | e :: rest => .ok (e, { s with seq := { s.seq with loopStack := rest } })

/-- Push the counter stack (R57, R59). -/
def pushCntr (s : State) : Result State :=
  if s.cfg.cntrStackDepth ≤ s.seq.cntrStack.length then
    .error (.stackOverflow .counter (sstat { s with seq := { s.seq with cntrOvf := true } }))
  else .ok { s with seq := { s.seq with cntrStack := s.seq.cntr :: s.seq.cntrStack } }

/-- Pop the counter stack into CNTR (R57, R372). -/
def popCntr (s : State) : Result State :=
  match s.seq.cntrStack with
  | [] => .error (.stackUnderflow .counter)
  | v :: rest => .ok { s with seq := { s.seq with cntr := v, cntrStack := rest } }

/-- PUSH STS: push ASTAT, MSTAT and IMASK (R58, R371). -/
def pushSts (s : State) : Result State :=
  if s.cfg.stsStackDepth ≤ s.seq.stsStack.length then
    .error (.stackOverflow .status (sstat { s with seq := { s.seq with stsOvf := true } }))
  else
    .ok { s with seq := { s.seq with
      stsStack := { astat := s.astat, mstat := s.mstat, imask := s.int.imask } :: s.seq.stsStack } }

/-- POP STS: pop ASTAT, MSTAT and IMASK (R58, R371). -/
def popSts (s : State) : Result State :=
  match s.seq.stsStack with
  | [] => .error (.stackUnderflow .status)
  | e :: rest =>
    .ok { s with
      astat := e.astat, mstat := e.mstat, int := { s.int with imask := e.imask }
      seq := { s.seq with stsStack := rest } }

/-! Registers. -/

/-- The low `n` bits of a word (R39: the registers of `IMASK_BITS`, `ICNTL_BITS` and `IFC_BITS` bits). -/
def lowBits (n : Nat) (v : Word) : Word := BitVec.ofNat 16 (v.toNat % 2 ^ n)

/-- ICNTL as it is stored: `ICNTL_BITS` bits, of which bit 3 reads 0 (R441). -/
def icntlOf (bits : Nat) (v : Word) : Word := lowBits bits v &&& ~~~(1#16 <<< 3)

/-- The latch of one source after a write of `v` to IFC: clear, then force (R442). -/
def ifcLatch (v : Word) (src : IntSource) (pending : Bool) : Bool :=
  let kept := match src.clearBit with
    | some k => pending && !v.getLsbD k
    | none => pending
  match src.forceBit with
  | some k => kept || v.getLsbD k
  | none => kept

/-- The latches after a write of `v` to IFC (R442). -/
def ifcLatches (v : Word) : List IntSource → List Bool → List Bool
  | [], _ => []
  | src :: rest, pend => ifcLatch v src (pend.headD false) :: ifcLatches v rest pend.tail

/-- Write a data register, truncating; MR1 is sign-extended into MR2 (R23, R31, R303). -/
def writeDregBank (d : DReg) (v : Word) (b : Bank) : Bank :=
  match d with
  | .ax0 => { b with ax0 := v }
  | .ax1 => { b with ax1 := v }
  | .mx0 => { b with mx0 := v }
  | .mx1 => { b with mx1 := v }
  | .ay0 => { b with ay0 := v }
  | .ay1 => { b with ay1 := v }
  | .my0 => { b with my0 := v }
  | .my1 => { b with my1 := v }
  | .si => { b with si := v }
  | .se => { b with se := v.setWidth 8 }
  | .ar => { b with ar := v }
  | .mr0 => { b with mr0 := v }
  | .mr1 => { b with mr1 := v, mr2 := if v.msb then 0xFF#8 else 0#8 }
  | .mr2 => { b with mr2 := v.setWidth 8 }
  | .sr0 => { b with sr0 := v }
  | .sr1 => { b with sr1 := v }

/-- Write a data register of the active bank. -/
def writeDreg (d : DReg) (v : Word) (s : State) : State := setBank (writeDregBank d v (activeBank s)) s

/-- Load CNTR: push the old value, unless this is the first load and `CNTR_FIRST_LOAD_PUSHES` is false (R41). What
else than such a load makes CNTR loaded is the model's choice (log 28): a write of OWRCNTR does, nothing undoes it. -/
def loadCntr (v : Addr) (s : State) : Result State := do
  let s ← if s.cfg.cntrFirstLoadPushes || s.seq.cntrLoaded then pushCntr s else .ok s
  .ok { s with seq := { s.seq with cntr := v, cntrLoaded := true } }

/-- `busval(r)` (R30), and the state after the read: RX0 and RX1 draw from the environment (R40). `w` is the word of
the instruction, for the fault of a read of a write-only register (R160 item 4, D4). -/
def readReg (w : PmWord) (r : Reg) (s : State) : Result (Word × State) :=
  match r with
  | .dreg d => .ok (dregVal d (activeBank s), s)
  | .i n => .ok (s.dag.i[n].setWidth 16, s)
  | .m n => .ok (s.dag.m[n].signExtend 16, s)
  | .l n => .ok (s.dag.l[n].setWidth 16, s)
  | .astat => .ok (s.astat.setWidth 16, s)
  | .mstat => .ok (s.mstat.setWidth 16, s)
  | .sstat => .ok ((sstat s).setWidth 16, s)
  | .imask => .ok (s.int.imask, s)
  | .icntl => .ok (s.int.icntl, s)
  | .cntr => .ok (s.seq.cntr.setWidth 16, s)
  | .sb => .ok ((activeBank s).sb.signExtend 16, s)
  | .px => .ok (s.px.setWidth 16, s)
  | .rx0 =>
    let v := Config.rxInput s.draws 0
    .ok (v, emit (.rxRead 0 v) (countDraw s))
  | .rx1 =>
    let v := Config.rxInput s.draws 1
    .ok (v, emit (.rxRead 1 v) (countDraw s))
  | .tx0 => .ok (s.ports.tx0, s)
  | .tx1 => .ok (s.ports.tx1, s)
  | .ifc | .owrcntr => .error (.unusedEncoding w)

/-- `regwrite(r, v)` (R31, R303). `w` is the word of the instruction, for the fault of a write to SSTAT (R160 item 4,
D4). DESIGN CHOICE (log 28): with `CNTR_FIRST_LOAD_PUSHES` = false a write of OWRCNTR counts as the first load of CNTR,
so that the next load pushes; R41, R44 and D18 do not say. -/
def writeReg (w : PmWord) (r : Reg) (v : Word) (s : State) : Result State :=
  match r with
  | .dreg d => .ok (writeDreg d v s)
  | .i n => .ok (setI n (v.setWidth 14) s)
  | .m n => .ok (setM n (v.setWidth 14) s)
  | .l n => .ok (setL n (v.setWidth 14) s)
  | .astat => .ok (setAstat (v.setWidth 8) s)
  | .mstat => .ok (setMstat (v.setWidth 7) s)
  | .sstat => .error (.unusedEncoding w)
  | .imask => .ok (setInt { s.int with imask := lowBits s.cfg.imaskBits v } s)
  | .icntl => .ok (setInt { s.int with icntl := icntlOf s.cfg.icntlBits v } s)
  | .cntr => loadCntr (v.setWidth 14) s
  | .sb => .ok (setBank { activeBank s with sb := v.setWidth 5 } s)
  | .px => .ok (setPx (v.setWidth 8) s)
  | .rx0 => .ok (setPorts { s.ports with rx0 := v } s)
  | .rx1 => .ok (setPorts { s.ports with rx1 := v } s)
  | .tx0 => .ok (emit (.txWrite 0 v) (setPorts { s.ports with tx0 := v } s))
  | .tx1 => .ok (emit (.txWrite 1 v) (setPorts { s.ports with tx1 := v } s))
  | .ifc =>
    .ok (setInt { s.int with
      irqPending := ifcLatches (lowBits s.cfg.ifcBits v) s.cfg.intTable s.int.irqPending } s)
  | .owrcntr => .ok { s with seq := { s.seq with cntr := v.setWidth 14, cntrLoaded := true } }

/-! Interrupt entry and return. -/

/-- Whether a source's requests are latched; a sensitivity bit of ICNTL is 1 for edge (R441, R444). -/
def sourceIsEdge (icntl : Word) (src : IntSource) : Bool :=
  match src.sensitivity with
  | .edge => true
  | .level => false
  | .icntlBit k => icntl.getLsbD k

/-- IMASK with the bits of the sources in the list cleared. -/
def clearMaskBits (mask : Word) (srcs : List IntSource) : Word :=
  srcs.foldl (fun m src => m &&& ~~~(1#16 <<< src.maskBit)) mask

/-- The value of a `MaskRule` at an IMASK and an ICNTL (R444). -/
def maskOfRule (imask icntl : Word) : MaskRule → Word
  | .leaf keep set => (imask &&& keep) ||| set
  | .ifImask b yes no => if imask.getLsbD b then maskOfRule imask icntl yes else maskOfRule imask icntl no
  | .ifIcntl b yes no => if icntl.getLsbD b then maskOfRule imask icntl yes else maskOfRule imask icntl no

/-- PRESUMED (R446, general knowledge, log 13): 0 without nesting; with nesting the bits of source number `k` and of
every source of lower priority are cleared. -/
def nestingMask (cfg : Config) (k : Nat) (imask icntl : Word) : Word :=
  if icntl.getLsbD 4 then clearMaskBits imask (cfg.intTable.drop k) else 0

/-- `entryMask` (R444): what the configuration sets for source number `k`, in `IMASK_BITS` bits; the function of R446
where it sets nothing (log 13). -/
def entryMask (cfg : Config) (k : Nat) (imask icntl : Word) : Word :=
  match cfg.entryMask[k]? with
  | some rule => lowBits cfg.imaskBits (maskOfRule imask icntl rule)
  | none => nestingMask cfg k imask icntl

/-- The latches after source number `k` is taken: that of an edge-sensitive source is cleared, that of a level-sensitive
one stays as it is (R443, log 7). -/
def latchesAfterEntry (icntl : Word) (k : Nat) (src : IntSource) (pend : List Bool) : List Bool :=
  if sourceIsEdge icntl src then pend.set k false else pend

/-- TAKING AN INTERRUPT (R443): clear the latch of an edge-sensitive source, push PC on the PC stack and ASTAT, MSTAT,
IMASK on the status stack, mask, leave idle, and go to the vector. -/
def takeInterrupt (k : Nat) (src : IntSource) (s : State) : Result State := do
  let s := setInt { s.int with irqPending := latchesAfterEntry s.int.icntl k src s.int.irqPending } s
  let s ← pushPc s.seq.pc s
  let s ← pushSts s
  let s := setInt { s.int with imask := entryMask s.cfg k s.int.imask s.int.icntl, idle := false } s
  .ok (setPc src.vector s)

/-- RETURN FROM INTERRUPT (R341): the return address from the PC stack, ASTAT, MSTAT and IMASK from the status stack. -/
def returnFromInterrupt (s : State) : Result State := do
  guardPcStack s
  let (a, s) ← popPc s
  let s ← popSts s
  .ok (transferTo a s)

end Sys2Proof.Machine
end

