-- ==== Sys2Proof/Machine/Alu.lean ====
section
/-! DEFINITION. The ALU instructions (40_alu.md): the shared ALU operations, and one meaning for each row of the
opcode table. -/

namespace Sys2Proof.Machine

/-- The value an ALU operation writes to AR: saturated under AR_SAT (R172). Where only a latched AV is set, it is a
draw between the plain result and full scale (U2). -/
def arValue (o : AluOut) (s : State) : Word :=
  if arSat s then
    if avLatch s && flagAv s && !o.ov then
      if Config.freeChoice s.draws then satValue o.carry else o.r
    else satAr o
  else o.r

/-- Whether writing AR takes the draw of U2. -/
def arDraws (o : AluOut) (s : State) : Bool := arSat s && (avLatch s && flagAv s && !o.ov)

/-- Write an ALU result to AR or AF (R173, R174). -/
def writeAlu (z : Dest) (o : AluOut) (s : State) : State :=
  match z with
  | .feedback => setBank { activeBank s with af := o.r } s
  | .result =>
    let t := setBank { activeBank s with ar := arValue o s } s
    if arDraws o s then countDraw t else t

/-- The ALU step on given operands: the result and its status (R170, R171, R174). -/
def aluStep (f : AluFn) (z : Dest) (x y : Word) (s : State) : State :=
  let o := aluFn f x y (flagAc s)
  setAstat (aluStatusOf f x s.astat (avLatch s) o) (writeAlu z o s)

/-- The generic conditional ALU instruction, register form (R174). -/
def aluCond (f : AluFn) (z : Dest) (y : AluYop) (x : AluXop) (c : Cond) (s : State) : Answer :=
  answer (ifCond c (fun t => .ok (aluStep f z (aluX x (activeBank t)) (aluY y (activeBank t)) t)) s)

/-- An instruction of the members with `hasExt`; elsewhere its word is an unused encoding (R160 item 5, D3). -/
def needsExt (w : PmWord) (op : State → Answer) (s : State) : Answer :=
  if s.cfg.member.hasExt then op s else .fault (.unusedEncoding w)

/-- The generic conditional ALU instruction, constant form (R174); `w` is the instruction's word. -/
def aluCondConst (w : PmWord) (f : AluFn) (z : Dest) (k : Word) (x : AluXop) (c : Cond) (s : State) : Answer :=
  needsExt w (fun s => answer (ifCond c (fun t => .ok (aluStep f z (aluX x (activeBank t)) k t)) s)) s

/-- PASS constant (R190): the destination receives the value, the four ALU flags are free (U1), and under AR_SAT a
value written to AR is free as well. -/
def passConstStep (z : Dest) (v : Word) (s : State) : State :=
  let t := match z with
    | .feedback => setBank { activeBank s with af := v } s
    | .result => setBank { activeBank s with ar := if arSat s then Config.freeWord s.draws else v } s
  countDraw (setAstat (putAluFlags s.astat (Config.freeFlags s.draws)) t)

/-- The conditional PASS constant (R190). -/
def passConst (w : PmWord) (z : Dest) (v : Word) (c : Cond) (s : State) : Answer :=
  needsExt w (fun s => answer (ifCond c (fun t => .ok (passConstStep z v t)) s)) s

/-- Write the results of a divide step: AF, AY0 and AQ, and no other flag (R196, R197). -/
def writeDiv (o : DivOut) (s : State) : State :=
  setAstat (putFlag s.astat 5 o.q) (setBank { activeBank s with af := o.af, ay0 := o.ay0 } s)

/-- The ALU step that writes the status and no register (R198). -/
def aluStatusStep (f : AluFn) (x y : Word) (s : State) : State :=
  setAstat (aluStatusOf f x s.astat (avLatch s) (aluFn f x y (flagAc s))) s

/-- `[IF cond] AR|AF = PASS yop`: type 9, register form (R188). -/
def execAluPassY (z : Dest) (y : AluYop) (x : AluXop) (c : Cond) (s : State) : Answer :=
  aluCond .passY z y x c s

/-- `[IF cond] AR|AF = yop + 1 (INCREMENT)`: type 9, register form (R194). -/
def execAluIncY (z : Dest) (y : AluYop) (x : AluXop) (c : Cond) (s : State) : Answer :=
  aluCond .incY z y x c s

/-- `[IF cond] AR|AF = xop + yop + C (ADD with CARRY)`: type 9, register form (R176). -/
def execAluAddC (z : Dest) (y : AluYop) (x : AluXop) (c : Cond) (s : State) : Answer :=
  aluCond .addC z y x c s

/-- `[IF cond] AR|AF = xop + yop (ADD)`: type 9, register form (R175). -/
def execAluAdd (z : Dest) (y : AluYop) (x : AluXop) (c : Cond) (s : State) : Answer :=
  aluCond .add z y x c s

/-- `[IF cond] AR|AF = NOT yop`: type 9, register form (R192). -/
def execAluNotY (z : Dest) (y : AluYop) (x : AluXop) (c : Cond) (s : State) : Answer :=
  aluCond .notY z y x c s

/-- `[IF cond] AR|AF = -yop (NEGATE)`: type 9, register form (R191). -/
def execAluNegY (z : Dest) (y : AluYop) (x : AluXop) (c : Cond) (s : State) : Answer :=
  aluCond .negY z y x c s

/-- `[IF cond] AR|AF = xop - yop + C - 1 (SUBTRACT X-Y with BORROW)`: type 9, register form (R178). -/
def execAluSubXYBorrow (z : Dest) (y : AluYop) (x : AluXop) (c : Cond) (s : State) : Answer :=
  aluCond .subXYBorrow z y x c s

/-- `[IF cond] AR|AF = xop - yop (SUBTRACT X-Y)`: type 9, register form (R177). -/
def execAluSubXY (z : Dest) (y : AluYop) (x : AluXop) (c : Cond) (s : State) : Answer :=
  aluCond .subXY z y x c s

/-- `[IF cond] AR|AF = yop - 1 (DECREMENT)`: type 9, register form (R195). -/
def execAluDecY (z : Dest) (y : AluYop) (x : AluXop) (c : Cond) (s : State) : Answer :=
  aluCond .decY z y x c s

/-- `[IF cond] AR|AF = yop - xop (SUBTRACT Y-X)`: type 9, register form (R179). -/
def execAluSubYX (z : Dest) (y : AluYop) (x : AluXop) (c : Cond) (s : State) : Answer :=
  aluCond .subYX z y x c s

/-- `[IF cond] AR|AF = yop - xop + C - 1 (SUBTRACT Y-X with BORROW)`: type 9, register form (R180). -/
def execAluSubYXBorrow (z : Dest) (y : AluYop) (x : AluXop) (c : Cond) (s : State) : Answer :=
  aluCond .subYXBorrow z y x c s

/-- `[IF cond] AR|AF = NOT xop`: type 9, register form (R192). -/
def execAluNotX (z : Dest) (y : AluYop) (x : AluXop) (c : Cond) (s : State) : Answer :=
  aluCond .notX z y x c s

/-- `[IF cond] AR|AF = xop AND yop`: type 9, register form (R181). -/
def execAluAnd (z : Dest) (y : AluYop) (x : AluXop) (c : Cond) (s : State) : Answer :=
  aluCond .andXY z y x c s

/-- `[IF cond] AR|AF = xop OR yop`: type 9, register form (R182). -/
def execAluOr (z : Dest) (y : AluYop) (x : AluXop) (c : Cond) (s : State) : Answer :=
  aluCond .orXY z y x c s

/-- `[IF cond] AR|AF = xop XOR yop`: type 9, register form (R183). -/
def execAluXor (z : Dest) (y : AluYop) (x : AluXop) (c : Cond) (s : State) : Answer :=
  aluCond .xorXY z y x c s

/-- `[IF cond] AR|AF = ABS xop`: type 9, register form (R193). -/
def execAluAbs (z : Dest) (y : AluYop) (x : AluXop) (c : Cond) (s : State) : Answer :=
  aluCond .absX z y x c s

/-- `[IF cond] AR|AF = xop + constant`: type 9, constant form (R175). -/
def execAluAddK (z : Dest) (n : BitVec 4) (inv : Bool) (x : AluXop) (c : Cond) (s : State) : Answer :=
  aluCondConst (encodeWith s.cfg.codes (.aluAddK z n inv x c)) .add z (aluConst n inv) x c s

/-- `[IF cond] AR|AF = xop + constant + C`: type 9, constant form (R176). -/
def execAluAddKC (z : Dest) (n : BitVec 4) (inv : Bool) (x : AluXop) (c : Cond) (s : State) : Answer :=
  aluCondConst (encodeWith s.cfg.codes (.aluAddKC z n inv x c)) .addC z (aluConst n inv) x c s

/-- `[IF cond] AR|AF = xop - constant`: type 9, constant form (R177). -/
def execAluSubXK (z : Dest) (n : BitVec 4) (inv : Bool) (x : AluXop) (c : Cond) (s : State) : Answer :=
  aluCondConst (encodeWith s.cfg.codes (.aluSubXK z n inv x c)) .subXY z (aluConst n inv) x c s

/-- `[IF cond] AR|AF = xop - constant + C - 1`: type 9, constant form (R178). -/
def execAluSubXKBorrow (z : Dest) (n : BitVec 4) (inv : Bool) (x : AluXop) (c : Cond) (s : State) : Answer :=
  aluCondConst (encodeWith s.cfg.codes (.aluSubXKBorrow z n inv x c)) .subXYBorrow z (aluConst n inv) x c s

/-- `[IF cond] AR|AF = -xop + constant`: type 9, constant form (R179). -/
def execAluSubKX (z : Dest) (n : BitVec 4) (inv : Bool) (x : AluXop) (c : Cond) (s : State) : Answer :=
  aluCondConst (encodeWith s.cfg.codes (.aluSubKX z n inv x c)) .subYX z (aluConst n inv) x c s

/-- `[IF cond] AR|AF = -xop + constant + C - 1`: type 9, constant form (R180). -/
def execAluSubKXBorrow (z : Dest) (n : BitVec 4) (inv : Bool) (x : AluXop) (c : Cond) (s : State) : Answer :=
  aluCondConst (encodeWith s.cfg.codes (.aluSubKXBorrow z n inv x c)) .subYXBorrow z (aluConst n inv) x c s

/-- `[IF cond] AR|AF = PASS constant`: type 9, constant form (R190). -/
def execAluPassK (z : Dest) (n : BitVec 4) (inv : Bool) (x : AluXop) (c : Cond) (s : State) : Answer :=
  passConst (encodeWith s.cfg.codes (.aluPassK z n inv x c)) z (aluConst n inv) c s

/-- `[IF cond] AR|AF = PASS constant + 1`: type 9, constant form (R190). -/
def execAluPassKInc (z : Dest) (n : BitVec 4) (inv : Bool) (x : AluXop) (c : Cond) (s : State) : Answer :=
  passConst (encodeWith s.cfg.codes (.aluPassKInc z n inv x c)) z (aluConst n inv + 1) c s

/-- `[IF cond] AR|AF = PASS constant - 1`: type 9, constant form (R190). -/
def execAluPassKDec (z : Dest) (n : BitVec 4) (inv : Bool) (x : AluXop) (c : Cond) (s : State) : Answer :=
  passConst (encodeWith s.cfg.codes (.aluPassKDec z n inv x c)) z (aluConst n inv - 1) c s

/-- `[IF cond] AR|AF = TSTBIT n OF xop (= xop AND 1<<n)`: type 9, constant form (R184). -/
def execAluTstbit (z : Dest) (n : BitVec 4) (x : AluXop) (c : Cond) (s : State) : Answer :=
  aluCondConst (encodeWith s.cfg.codes (.aluTstbit z n x c)) .andXY z (aluConst n false) x c s

/-- `[IF cond] AR|AF = CLRBIT n OF xop (= xop AND ~(1<<n))`: type 9, constant form (R186). -/
def execAluClrbit (z : Dest) (n : BitVec 4) (x : AluXop) (c : Cond) (s : State) : Answer :=
  aluCondConst (encodeWith s.cfg.codes (.aluClrbit z n x c)) .andXY z (aluConst n true) x c s

/-- `[IF cond] AR|AF = SETBIT n OF xop (= xop OR 1<<n)`: type 9, constant form (R185). -/
def execAluSetbit (z : Dest) (n : BitVec 4) (x : AluXop) (c : Cond) (s : State) : Answer :=
  aluCondConst (encodeWith s.cfg.codes (.aluSetbit z n x c)) .orXY z (aluConst n false) x c s

/-- `[IF cond] AR|AF = xop OR constant, constant = ~(1<<n)`: type 9, constant form (R182). -/
def execAluOrNotBit (z : Dest) (n : BitVec 4) (x : AluXop) (c : Cond) (s : State) : Answer :=
  aluCondConst (encodeWith s.cfg.codes (.aluOrNotBit z n x c)) .orXY z (aluConst n true) x c s

/-- `[IF cond] AR|AF = TGLBIT n OF xop (= xop XOR 1<<n)`: type 9, constant form (R187). -/
def execAluTglbit (z : Dest) (n : BitVec 4) (x : AluXop) (c : Cond) (s : State) : Answer :=
  aluCondConst (encodeWith s.cfg.codes (.aluTglbit z n x c)) .xorXY z (aluConst n false) x c s

/-- `[IF cond] AR|AF = xop XOR constant, constant = ~(1<<n)`: type 9, constant form (R183). -/
def execAluXorNotBit (z : Dest) (n : BitVec 4) (x : AluXop) (c : Cond) (s : State) : Answer :=
  aluCondConst (encodeWith s.cfg.codes (.aluXorNotBit z n x c)) .xorXY z (aluConst n true) x c s

/-- `[IF cond] AR|AF = NOT constant (no assembler syntax)`: type 9, constant form (R174). -/
def execAluNotK (z : Dest) (n : BitVec 4) (inv : Bool) (x : AluXop) (c : Cond) (s : State) : Answer :=
  aluCondConst (encodeWith s.cfg.codes (.aluNotK z n inv x c)) .notY z (aluConst n inv) x c s

/-- `[IF cond] AR|AF = -constant (no assembler syntax)`: type 9, constant form (R174). -/
def execAluNegK (z : Dest) (n : BitVec 4) (inv : Bool) (x : AluXop) (c : Cond) (s : State) : Answer :=
  aluCondConst (encodeWith s.cfg.codes (.aluNegK z n inv x c)) .negY z (aluConst n inv) x c s

/-- `[IF cond] AR|AF = NOT xop (constant ignored) (no assembler syntax)`: type 9, constant form (R174). -/
def execAluNotXK (z : Dest) (n : BitVec 4) (inv : Bool) (x : AluXop) (c : Cond) (s : State) : Answer :=
  aluCondConst (encodeWith s.cfg.codes (.aluNotXK z n inv x c)) .notX z (aluConst n inv) x c s

/-- `[IF cond] AR|AF = ABS xop (constant ignored) (no assembler syntax)`: type 9, constant form (R174). -/
def execAluAbsK (z : Dest) (n : BitVec 4) (inv : Bool) (x : AluXop) (c : Cond) (s : State) : Answer :=
  aluCondConst (encodeWith s.cfg.codes (.aluAbsK z n inv x c)) .absX z (aluConst n inv) x c s

/-- `DIVS yop, xop`: type 24 (R196). -/
def execDivs (y : DivsYop) (x : AluXop) (s : State) : Answer :=
  .next (writeDiv (divsStep (aluX x (activeBank s)) (divsY y (activeBank s)) (activeBank s).ay0) s)

/-- `DIVQ xop`: type 23 (R197). -/
def execDivq (x : AluXop) (s : State) : Answer :=
  .next (writeDiv (divqStep (aluX x (activeBank s)) (activeBank s).af (activeBank s).ay0 (flagAq s)) s)

/-- `NONE = <ALU>`: type 8 (special case) (R198). Without `hasExt` the word names AR
as destination twice (R402). -/
def execNoneAlu (f : AluFn) (y : AluYop) (x : AluXop) (s : State) : Answer :=
  if s.cfg.member.hasExt then .next (aluStatusStep f (aluX x (activeBank s)) (aluY y (activeBank s)) s)
  else .fault (.sameDestination (encodeWith s.cfg.codes (.noneAlu f y x)))

end Sys2Proof.Machine
end

