-- ==== Sys2Proof/Machine/Mac.lean ====
section
/-! DEFINITION. The multiplier instructions (41_mac.md): the shared MAC operations, and one meaning for each row of
the opcode table. -/

namespace Sys2Proof.Machine

/-- Whether rounding is biased: the mode exists only where `hasExt` holds (R64, R233). -/
def biasedRounding (s : State) : Bool := s.cfg.biasrnd && s.cfg.member.hasExt

/-- Write all 40 bits of MR (R234). -/
def writeMr (v : Acc) (b : Bank) : Bank :=
  { b with mr2 := v.extractLsb' 32 8, mr1 := v.extractLsb' 16 16, mr0 := v.extractLsb' 0 16 }

/-- Write a MAC result to MR, or its bits 31 to 16 to MF (R234). -/
def writeMac (z : Dest) (res : Acc) (s : State) : State :=
  match z with
  | .result => setBank (writeMr res (activeBank s)) s
  | .feedback => setBank { activeBank s with mf := res.extractLsb' 16 16 } s

/-- The 40-bit result of a MAC function on given operands (R230). -/
def macResult (f : MacFn) (x y : Word) (s : State) : Acc :=
  macStep f (mMode s) (biasedRounding s) (mrOf (activeBank s)) x y

/-- The MAC step on given operands: the result and MV (R230, R234, R241). -/
def macOp (f : MacFn) (z : Dest) (x y : Word) (s : State) : State :=
  setAstat (putFlag s.astat 6 (macOverflow (macResult f x y s))) (writeMac z (macResult f x y s) s)

/-- The generic conditional MAC instruction, register form (R241). -/
def macCond (f : MacFn) (z : Dest) (y : MacYop) (x : MacXop) (c : Cond) (s : State) : Answer :=
  answer (ifCond c (fun t => .ok (macOp f z (macX x (activeBank t)) (macY y (activeBank t)) t)) s)

/-- The generic conditional MAC instruction, squaring form (R241, R242); `w` is the instruction's word. -/
def macCondSqr (w : PmWord) (f : MacFn) (z : Dest) (x : MacXop) (c : Cond) (s : State) : Answer :=
  needsExt w (fun s =>
    answer (ifCond c (fun t => .ok (macOp f z (macX x (activeBank t)) (macX x (activeBank t)) t)) s)) s

/-- MR saturated in the direction of its sign (R240). -/
def saturatedMr (mr2 : BitVec 8) : Acc := if mr2.msb then 0xFF80000000#40 else 0x007FFFFFFF#40

/-- `[IF cond] MR|MF = xop * yop (RND)`: type 9, register form (R235). -/
def execMacMulRnd (z : Dest) (y : MacYop) (x : MacXop) (c : Cond) (s : State) : Answer :=
  macCond ⟨.mul, .rnd⟩ z y x c s

/-- `[IF cond] MR|MF = xop * yop (SS)`: type 9, register form (R235). -/
def execMacMulSs (z : Dest) (y : MacYop) (x : MacXop) (c : Cond) (s : State) : Answer :=
  macCond ⟨.mul, .ss⟩ z y x c s

/-- `[IF cond] MR|MF = xop * yop (SU)`: type 9, register form (R235). -/
def execMacMulSu (z : Dest) (y : MacYop) (x : MacXop) (c : Cond) (s : State) : Answer :=
  macCond ⟨.mul, .su⟩ z y x c s

/-- `[IF cond] MR|MF = xop * yop (US)`: type 9, register form (R235). -/
def execMacMulUs (z : Dest) (y : MacYop) (x : MacXop) (c : Cond) (s : State) : Answer :=
  macCond ⟨.mul, .us⟩ z y x c s

/-- `[IF cond] MR|MF = xop * yop (UU)`: type 9, register form (R235). -/
def execMacMulUu (z : Dest) (y : MacYop) (x : MacXop) (c : Cond) (s : State) : Answer :=
  macCond ⟨.mul, .uu⟩ z y x c s

/-- `[IF cond] MR|MF = MR + xop * yop (RND)`: type 9, register form (R236). -/
def execMacAddRnd (z : Dest) (y : MacYop) (x : MacXop) (c : Cond) (s : State) : Answer :=
  macCond ⟨.add, .rnd⟩ z y x c s

/-- `[IF cond] MR|MF = MR + xop * yop (SS)`: type 9, register form (R236). -/
def execMacAddSs (z : Dest) (y : MacYop) (x : MacXop) (c : Cond) (s : State) : Answer :=
  macCond ⟨.add, .ss⟩ z y x c s

/-- `[IF cond] MR|MF = MR + xop * yop (SU)`: type 9, register form (R236). -/
def execMacAddSu (z : Dest) (y : MacYop) (x : MacXop) (c : Cond) (s : State) : Answer :=
  macCond ⟨.add, .su⟩ z y x c s

/-- `[IF cond] MR|MF = MR + xop * yop (US)`: type 9, register form (R236). -/
def execMacAddUs (z : Dest) (y : MacYop) (x : MacXop) (c : Cond) (s : State) : Answer :=
  macCond ⟨.add, .us⟩ z y x c s

/-- `[IF cond] MR|MF = MR + xop * yop (UU)`: type 9, register form (R236). -/
def execMacAddUu (z : Dest) (y : MacYop) (x : MacXop) (c : Cond) (s : State) : Answer :=
  macCond ⟨.add, .uu⟩ z y x c s

/-- `[IF cond] MR|MF = MR - xop * yop (RND)`: type 9, register form (R237). -/
def execMacSubRnd (z : Dest) (y : MacYop) (x : MacXop) (c : Cond) (s : State) : Answer :=
  macCond ⟨.sub, .rnd⟩ z y x c s

/-- `[IF cond] MR|MF = MR - xop * yop (SS)`: type 9, register form (R237). -/
def execMacSubSs (z : Dest) (y : MacYop) (x : MacXop) (c : Cond) (s : State) : Answer :=
  macCond ⟨.sub, .ss⟩ z y x c s

/-- `[IF cond] MR|MF = MR - xop * yop (SU)`: type 9, register form (R237). -/
def execMacSubSu (z : Dest) (y : MacYop) (x : MacXop) (c : Cond) (s : State) : Answer :=
  macCond ⟨.sub, .su⟩ z y x c s

/-- `[IF cond] MR|MF = MR - xop * yop (US)`: type 9, register form (R237). -/
def execMacSubUs (z : Dest) (y : MacYop) (x : MacXop) (c : Cond) (s : State) : Answer :=
  macCond ⟨.sub, .us⟩ z y x c s

/-- `[IF cond] MR|MF = MR - xop * yop (UU)`: type 9, register form (R237). -/
def execMacSubUu (z : Dest) (y : MacYop) (x : MacXop) (c : Cond) (s : State) : Answer :=
  macCond ⟨.sub, .uu⟩ z y x c s

/-- `[IF cond] MR|MF = xop * xop (RND)`: type 9, squaring form (R235). -/
def execMacSqrMulRnd (z : Dest) (x : MacXop) (c : Cond) (s : State) : Answer :=
  macCondSqr (encodeWith s.cfg.codes (.macSqrMulRnd z x c)) ⟨.mul, .rnd⟩ z x c s

/-- `[IF cond] MR|MF = xop * xop (SS)`: type 9, squaring form (R235). -/
def execMacSqrMulSs (z : Dest) (x : MacXop) (c : Cond) (s : State) : Answer :=
  macCondSqr (encodeWith s.cfg.codes (.macSqrMulSs z x c)) ⟨.mul, .ss⟩ z x c s

/-- `[IF cond] MR|MF = xop * xop (UU)`: type 9, squaring form (R235). -/
def execMacSqrMulUu (z : Dest) (x : MacXop) (c : Cond) (s : State) : Answer :=
  macCondSqr (encodeWith s.cfg.codes (.macSqrMulUu z x c)) ⟨.mul, .uu⟩ z x c s

/-- `[IF cond] MR|MF = MR + xop * xop (RND)`: type 9, squaring form (R236). -/
def execMacSqrAddRnd (z : Dest) (x : MacXop) (c : Cond) (s : State) : Answer :=
  macCondSqr (encodeWith s.cfg.codes (.macSqrAddRnd z x c)) ⟨.add, .rnd⟩ z x c s

/-- `[IF cond] MR|MF = MR + xop * xop (SS)`: type 9, squaring form (R236). -/
def execMacSqrAddSs (z : Dest) (x : MacXop) (c : Cond) (s : State) : Answer :=
  macCondSqr (encodeWith s.cfg.codes (.macSqrAddSs z x c)) ⟨.add, .ss⟩ z x c s

/-- `[IF cond] MR|MF = MR + xop * xop (UU)`: type 9, squaring form (R236). -/
def execMacSqrAddUu (z : Dest) (x : MacXop) (c : Cond) (s : State) : Answer :=
  macCondSqr (encodeWith s.cfg.codes (.macSqrAddUu z x c)) ⟨.add, .uu⟩ z x c s

/-- `[IF cond] MR|MF = MR - xop * xop (RND)`: type 9, squaring form (R237). -/
def execMacSqrSubRnd (z : Dest) (x : MacXop) (c : Cond) (s : State) : Answer :=
  macCondSqr (encodeWith s.cfg.codes (.macSqrSubRnd z x c)) ⟨.sub, .rnd⟩ z x c s

/-- `[IF cond] MR|MF = MR - xop * xop (SS)`: type 9, squaring form (R237). -/
def execMacSqrSubSs (z : Dest) (x : MacXop) (c : Cond) (s : State) : Answer :=
  macCondSqr (encodeWith s.cfg.codes (.macSqrSubSs z x c)) ⟨.sub, .ss⟩ z x c s

/-- `[IF cond] MR|MF = MR - xop * xop (UU)`: type 9, squaring form (R237). -/
def execMacSqrSubUu (z : Dest) (x : MacXop) (c : Cond) (s : State) : Answer :=
  macCondSqr (encodeWith s.cfg.codes (.macSqrSubUu z x c)) ⟨.sub, .uu⟩ z x c s

/-- `IF MV SAT MR`: type 25 (R240). -/
def execSatMr (s : State) : Answer :=
  if flagMv s then .next (setBank (writeMr (saturatedMr (activeBank s).mr2) (activeBank s)) s) else .next s

end Sys2Proof.Machine
end

