-- ==== Sys2Proof/Machine/Shifter.lean ====
section
/-! DEFINITION. The shifter instructions (42_shifter.md): the shared shifter operations, and one meaning for each row
of the opcode table. -/

namespace Sys2Proof.Machine

/-- Write SR, with the OR option over its old contents (R264). -/
def writeSr (withOr : Bool) (v : BitVec 32) (s : State) : State :=
  let r := if withOr then srOf (activeBank s) ||| v else v
  setBank { activeBank s with sr1 := r.extractLsb' 16 16, sr0 := r.extractLsb' 0 16 } s

/-- The extension bit of NORM: AC with the HI reference, 0 with LO (R261). -/
def normFill (ref : HiLo) (s : State) : Bool :=
  match ref with
  | .hi => flagAc s
  | .lo => false

/-- SE and SS as an EXP writes them (R268). -/
def writeExp (se : BitVec 8) (sign : Bool) (s : State) : State :=
  setAstat (putFlag s.astat 7 sign) (setBank { activeBank s with se := se } s)

/-- EXP (HI) (R268). -/
def expHi (x : Word) (s : State) : State := writeExp (BitVec.ofInt 8 (expHiOf x)) x.msb s

/-- EXP (HIX): an overflowed input has exponent +1 and the opposite sign (R268). -/
def expHix (x : Word) (s : State) : State := if flagAv s then writeExp 1 (!x.msb) s else expHi x s

/-- EXP (LO): SE only; SS is kept (R268). -/
def expLo (x : Word) (s : State) : State :=
  setBank { activeBank s with se := expLoOf (activeBank s).se (flagSs s) x } s

/-- EXPADJ: SB becomes the larger exponent (R269). -/
def expAdj (x : Word) (s : State) : State :=
  if (activeBank s).sb.toInt < expHiOf x then setBank { activeBank s with sb := BitVec.ofInt 5 (expHiOf x) } s else s

/-- `shifterOp` (R273): the function SF selects, on the input `x`. -/
def shiftOp (f : ShiftFn) (x : Word) (s : State) : State :=
  match f with
  | .lshift ref o => writeSr o (shiftField x (activeBank s).se.toInt ref false) s
  | .ashift ref o => writeSr o (shiftField x (activeBank s).se.toInt ref x.msb) s
  | .norm ref o => writeSr o (shiftField x (-(activeBank s).se.toInt) ref (normFill ref s)) s
  | .expHi => expHi x s
  | .expHix => expHix x s
  | .expLo => expLo x s
  | .expadj => expAdj x s

/-- The generic conditional shifter instruction (R273). -/
def shiftCond (f : ShiftFn) (x : ShiftXop) (c : Cond) (s : State) : Answer :=
  answer (ifCond c (fun t => .ok (shiftOp f (shiftX x (activeBank t)) t)) s)

/-- LSHIFT by an immediate code (R271). -/
def lshiftImm (ref : HiLo) (withOr : Bool) (x : ShiftXop) (e : BitVec 8) (s : State) : Answer :=
  .next (writeSr withOr (shiftField (shiftX x (activeBank s)) e.toInt ref false) s)

/-- ASHIFT by an immediate code (R270). -/
def ashiftImm (ref : HiLo) (withOr : Bool) (x : ShiftXop) (e : BitVec 8) (s : State) : Answer :=
  .next (writeSr withOr (shiftField (shiftX x (activeBank s)) e.toInt ref (shiftX x (activeBank s)).msb) s)

/-- `[IF cond] SR = LSHIFT xop (HI)`: type 16 (R266). -/
def execLshiftHi (x : ShiftXop) (c : Cond) (s : State) : Answer :=
  shiftCond (.lshift .hi false) x c s

/-- `[IF cond] SR = SR OR LSHIFT xop (HI)`: type 16 (R266). -/
def execLshiftHiOr (x : ShiftXop) (c : Cond) (s : State) : Answer :=
  shiftCond (.lshift .hi true) x c s

/-- `[IF cond] SR = LSHIFT xop (LO)`: type 16 (R266). -/
def execLshiftLo (x : ShiftXop) (c : Cond) (s : State) : Answer :=
  shiftCond (.lshift .lo false) x c s

/-- `[IF cond] SR = SR OR LSHIFT xop (LO)`: type 16 (R266). -/
def execLshiftLoOr (x : ShiftXop) (c : Cond) (s : State) : Answer :=
  shiftCond (.lshift .lo true) x c s

/-- `[IF cond] SR = ASHIFT xop (HI)`: type 16 (R265). -/
def execAshiftHi (x : ShiftXop) (c : Cond) (s : State) : Answer :=
  shiftCond (.ashift .hi false) x c s

/-- `[IF cond] SR = SR OR ASHIFT xop (HI)`: type 16 (R265). -/
def execAshiftHiOr (x : ShiftXop) (c : Cond) (s : State) : Answer :=
  shiftCond (.ashift .hi true) x c s

/-- `[IF cond] SR = ASHIFT xop (LO)`: type 16 (R265). -/
def execAshiftLo (x : ShiftXop) (c : Cond) (s : State) : Answer :=
  shiftCond (.ashift .lo false) x c s

/-- `[IF cond] SR = SR OR ASHIFT xop (LO)`: type 16 (R265). -/
def execAshiftLoOr (x : ShiftXop) (c : Cond) (s : State) : Answer :=
  shiftCond (.ashift .lo true) x c s

/-- `[IF cond] SR = NORM xop (HI)`: type 16 (R267). -/
def execNormHi (x : ShiftXop) (c : Cond) (s : State) : Answer :=
  shiftCond (.norm .hi false) x c s

/-- `[IF cond] SR = SR OR NORM xop (HI)`: type 16 (R267). -/
def execNormHiOr (x : ShiftXop) (c : Cond) (s : State) : Answer :=
  shiftCond (.norm .hi true) x c s

/-- `[IF cond] SR = NORM xop (LO)`: type 16 (R267). -/
def execNormLo (x : ShiftXop) (c : Cond) (s : State) : Answer :=
  shiftCond (.norm .lo false) x c s

/-- `[IF cond] SR = SR OR NORM xop (LO)`: type 16 (R267). -/
def execNormLoOr (x : ShiftXop) (c : Cond) (s : State) : Answer :=
  shiftCond (.norm .lo true) x c s

/-- `[IF cond] SE = EXP xop (HI)`: type 16 (R268). -/
def execExpHi (x : ShiftXop) (c : Cond) (s : State) : Answer :=
  shiftCond .expHi x c s

/-- `[IF cond] SE = EXP xop (HIX)`: type 16 (R268). -/
def execExpHix (x : ShiftXop) (c : Cond) (s : State) : Answer :=
  shiftCond .expHix x c s

/-- `[IF cond] SE = EXP xop (LO)`: type 16 (R268). -/
def execExpLo (x : ShiftXop) (c : Cond) (s : State) : Answer :=
  shiftCond .expLo x c s

/-- `[IF cond] SB = EXPADJ xop`: type 16 (R269). -/
def execExpadj (x : ShiftXop) (c : Cond) (s : State) : Answer :=
  shiftCond .expadj x c s

/-- `SR = LSHIFT xop BY <exp> (HI)`: type 15 (R271). -/
def execLshiftImmHi (x : ShiftXop) (e : BitVec 8) (s : State) : Answer :=
  lshiftImm .hi false x e s

/-- `SR = SR OR LSHIFT xop BY <exp> (HI)`: type 15 (R271). -/
def execLshiftImmHiOr (x : ShiftXop) (e : BitVec 8) (s : State) : Answer :=
  lshiftImm .hi true x e s

/-- `SR = LSHIFT xop BY <exp> (LO)`: type 15 (R271). -/
def execLshiftImmLo (x : ShiftXop) (e : BitVec 8) (s : State) : Answer :=
  lshiftImm .lo false x e s

/-- `SR = SR OR LSHIFT xop BY <exp> (LO)`: type 15 (R271). -/
def execLshiftImmLoOr (x : ShiftXop) (e : BitVec 8) (s : State) : Answer :=
  lshiftImm .lo true x e s

/-- `SR = ASHIFT xop BY <exp> (HI)`: type 15 (R270). -/
def execAshiftImmHi (x : ShiftXop) (e : BitVec 8) (s : State) : Answer :=
  ashiftImm .hi false x e s

/-- `SR = SR OR ASHIFT xop BY <exp> (HI)`: type 15 (R270). -/
def execAshiftImmHiOr (x : ShiftXop) (e : BitVec 8) (s : State) : Answer :=
  ashiftImm .hi true x e s

/-- `SR = ASHIFT xop BY <exp> (LO)`: type 15 (R270). -/
def execAshiftImmLo (x : ShiftXop) (e : BitVec 8) (s : State) : Answer :=
  ashiftImm .lo false x e s

/-- `SR = SR OR ASHIFT xop BY <exp> (LO)`: type 15 (R270). -/
def execAshiftImmLoOr (x : ShiftXop) (e : BitVec 8) (s : State) : Answer :=
  ashiftImm .lo true x e s

end Sys2Proof.Machine
end

