-- ==== Sys2Proof/Machine/Move.lean ====
section
/-! DEFINITION. The move instructions (43_move.md; the TOPPCSTACK forms of 45_misc.md R374 to R376): the shared
indirect accesses, and one meaning for each row of the opcode table. -/

namespace Sys2Proof.Machine

/-- `dreg = DM(Ia, Mb)` beside a computation: the word is read, the computation's writes are applied, then the
register and I are written (R294, R400). The computation reads nothing the transfer writes. -/
def loadDmInd (compute : State → State) (d : DReg) (a b : DagIdx) (s : State) : Result State := do
  let (v, t) ← readDm (addrOut s a) s
  .ok (postModify a b (writeDreg d v (compute t)))

/-- `dreg = PM(Ia, Mb)` beside a computation; PX takes the low byte (R95, R295, R400). -/
def loadPmInd (compute : State → State) (d : DReg) (a b : DagIdx) (s : State) : Result State := do
  let (p, t) ← readPm (addrOut s a) s
  .ok (postModify a b (setPx (p.extractLsb' 0 8) (writeDreg d (p.extractLsb' 8 16) (compute t))))

/-- `DM(Ia, Mb) = value` beside a computation (R297, R298, R400). -/
def storeDmInd (compute : State → State) (v : Word) (a b : DagIdx) (s : State) : Result State := do
  let t ← writeDm (addrOut s a) v s
  .ok (postModify a b (compute t))

/-- `PM(Ia, Mb) = dreg` beside a computation; the low byte comes from PX (R96, R299, R400). -/
def storePmInd (compute : State → State) (v : Word) (a b : DagIdx) (s : State) : Result State := do
  let t ← writePm (addrOut s a) (v ++ s.px) s
  .ok (postModify a b (compute t))

/-- Mark the pop of the PC stack that follows `reg = TOPPCSTACK` one instruction later (R60, R374). -/
def markPcPop (s : State) : State := { s with seq := { s.seq with pcPopPending := true } }

/-- `reg = TOPPCSTACK`, on a register the form may name (R374, R376); `w` is the instruction's word. -/
def topToReg (w : PmWord) (d : Reg) (s : State) : Result State := do
  guardPcStack s
  let a ← topPc s
  let t ← writeReg w d (a.setWidth 16) s
  .ok (markPcPop t)

/-- `TOPPCSTACK = reg`, on a register the form may name (R375, R376); `w` is the instruction's word. -/
def regToTop (w : PmWord) (r : Reg) (s : State) : Result State := do
  guardPcStack s
  let (v, t) ← readReg w r s
  pushPc (v.setWidth 14) t

/-- `reg = reg` (R290, R302); `w` is the instruction's word. -/
def regToReg (w : PmWord) (d r : Reg) (s : State) : Result State := do
  let (v, t) ← readReg w r s
  writeReg w d v t

/-- `reg = DM(addr)` (R293); `w` is the instruction's word. -/
def dmToReg (w : PmWord) (a : Addr) (d : Reg) (s : State) : Result State := do
  let (v, t) ← readDm a s
  writeReg w d v t

/-- `DM(addr) = reg` (R296); `w` is the instruction's word. -/
def regToDm (w : PmWord) (a : Addr) (r : Reg) (s : State) : Result State := do
  let (v, t) ← readReg w r s
  writeDm a v t

/-- `dreg = IO(addr)` (R301). -/
def ioToDreg (a : IoAddr) (d : DReg) (s : State) : Result State := do
  let (v, t) ← readIoSpace a s
  .ok (writeDreg d v t)

/-- `reg = TOPPCSTACK`: type 17 (special form) (R374). -/
def execMoveFromTop (d : Reg) (s : State) : Answer :=
  if d.isTopReg then answer (topToReg (encodeWith s.cfg.codes (.moveFromTop d)) d s)
  else .fault (.unusedEncoding (encodeWith s.cfg.codes (.moveFromTop d)))

/-- `TOPPCSTACK = reg`: type 17 (special form) (R375). -/
def execMoveToTop (r : Reg) (s : State) : Answer :=
  if r.isTopReg then answer (regToTop (encodeWith s.cfg.codes (.moveToTop r)) r s)
  else .fault (.unusedEncoding (encodeWith s.cfg.codes (.moveToTop r)))

/-- `reg = reg`: type 17 (R290). -/
def execMoveReg (d : Reg) (r : Reg) (s : State) : Answer :=
  answer (regToReg (encodeWith s.cfg.codes (.moveReg d r)) d r s)

/-- `dreg = <data>`: type 6 (R291). -/
def execLoadDreg (v : Word) (d : DReg) (s : State) : Answer :=
  .next (writeDreg d v s)

/-- `reg = <data> (non-data register)`: type 7 (R292). -/
def execLoadReg (v : BitVec 14) (d : Reg) (s : State) : Answer :=
  if d.isDreg then .fault (.unusedEncoding (encodeWith s.cfg.codes (.loadReg v d)))
  else answer (writeReg (encodeWith s.cfg.codes (.loadReg v d)) d (v.signExtend 16) s)

/-- `reg = DM(<addr>)`: type 3, D = 0 (R293). -/
def execReadDm (a : Addr) (d : Reg) (s : State) : Answer :=
  answer (dmToReg (encodeWith s.cfg.codes (.readDm a d)) a d s)

/-- `DM(<addr>) = reg`: type 3, D = 1 (R296). -/
def execWriteDm (a : Addr) (r : Reg) (s : State) : Answer :=
  answer (regToDm (encodeWith s.cfg.codes (.writeDm a r)) a r s)

/-- `dreg = DM(Ia, Mb)`: type 4, D = 0, no computation (R294). -/
def execReadDmInd (g : DagSel) (d : DReg) (i : BitVec 2) (m : BitVec 2) (s : State) : Answer :=
  answer (loadDmInd id d (dagIdx g i) (dagIdx g m) s)

/-- `DM(Ia, Mb) = dreg`: type 4, D = 1, no computation (R297). -/
def execWriteDmInd (g : DagSel) (r : DReg) (i : BitVec 2) (m : BitVec 2) (s : State) : Answer :=
  answer (storeDmInd id (dregVal r (activeBank s)) (dagIdx g i) (dagIdx g m) s)

/-- `DM(Ia, Mb) = <data>`: type 2 (R298). -/
def execWriteDmImm (g : DagSel) (v : Word) (i : BitVec 2) (m : BitVec 2) (s : State) : Answer :=
  answer (storeDmInd id v (dagIdx g i) (dagIdx g m) s)

/-- `dreg = PM(Ia, Mb)`: type 5, D = 0, no computation (R295). -/
def execReadPmInd (d : DReg) (i : BitVec 2) (m : BitVec 2) (s : State) : Answer :=
  answer (loadPmInd id d (dagIdx .dag2 i) (dagIdx .dag2 m) s)

/-- `PM(Ia, Mb) = dreg`: type 5, D = 1, no computation (R299). -/
def execWritePmInd (r : DReg) (i : BitVec 2) (m : BitVec 2) (s : State) : Answer :=
  answer (storePmInd id (dregVal r (activeBank s)) (dagIdx .dag2 i) (dagIdx .dag2 m) s)

/-- `dreg = IO(<addr>)`: type 29, D = 0 (R301). -/
def execReadIo (a : IoAddr) (d : DReg) (s : State) : Answer :=
  if s.cfg.member.hasIO then answer (ioToDreg a d s)
  else .fault (.unusedEncoding (encodeWith s.cfg.codes (.readIo a d)))

/-- `IO(<addr>) = dreg`: type 29, D = 1 (R300). -/
def execWriteIo (a : IoAddr) (r : DReg) (s : State) : Answer :=
  if s.cfg.member.hasIO then answer (writeIoSpace a (dregVal r (activeBank s)) s)
  else .fault (.unusedEncoding (encodeWith s.cfg.codes (.writeIo a r)))

end Sys2Proof.Machine
end

