-- ==== Sys2Proof/Machine/Flow.lean ====
section
/-! DEFINITION. The program flow instructions (44_program_flow.md). A transfer of control sets the sequencer's
`transfer`; the step gives PC its next value (R335). -/

namespace Sys2Proof.Machine

/-- The return address: the instruction after this one (R336, R46). -/
def returnAddr (s : State) : Addr := s.seq.pc + 1

/-- A taken CALL to `a` (R332, R333). -/
def callTo (a : Addr) (s : State) : Result State := do
  guardPcStack s
  let t ← pushPc (returnAddr s) s
  .ok (transferTo a t)

/-- A taken RTS (R340). -/
def returnFromSub (s : State) : Result State := do
  guardPcStack s
  let (a, t) ← popPc s
  .ok (transferTo a t)

/-- The I register of an indirect JUMP or CALL: I4 to I7, not modified and not bit-reversed (R330). -/
def indirectTarget (i : BitVec 2) (s : State) : Addr := s.dag.i[dagIdx .dag2 i]

/-- The state of a flag output pin. -/
def pinOf (p : Pin) (ports : Ports) : Bool :=
  match p with
  | .fo => ports.fo
  | .fl0 => ports.fl0
  | .fl1 => ports.fl1
  | .fl2 => ports.fl2

/-- The ports with one flag output pin replaced. -/
def putPin (p : Pin) (v : Bool) (ports : Ports) : Ports :=
  match p with
  | .fo => { ports with fo := v }
  | .fl0 => { ports with fl0 := v }
  | .fl1 => { ports with fl1 := v }
  | .fl2 => { ports with fl2 := v }

/-- What an FO field makes of a pin (R155, R345). -/
def pinAfter (op : PinOp) (old : Bool) : Bool :=
  match op with
  | .keep => old
  | .toggle => !old
  | .reset => false
  | .set => true

/-- Act on one pin; each change is an output event (R345). -/
def drivePin (p : Pin) (op : PinOp) (s : State) : State :=
  if pinAfter op (pinOf p s.ports) = pinOf p s.ports then s
  else emit (.pin p (pinAfter op (pinOf p s.ports))) (setPorts (putPin p (pinAfter op (pinOf p s.ports)) s.ports) s)

/-- Act on the four pins, in the order FL2, FL1, FL0, FO of the word's fields (R345). -/
def drivePins (fl2 fl1 fl0 fo : PinOp) (s : State) : State :=
  drivePin .fo fo (drivePin .fl0 fl0 (drivePin .fl1 fl1 (drivePin .fl2 fl2 s)))

/-- Whether a flag-out word acts on a pin that only members with `hasFL` have (R345, D3). -/
def usesFl (fl2 fl1 fl0 : PinOp) : Bool := !(fl2 == .keep && fl1 == .keep && fl0 == .keep)

/-- DO UNTIL when both stacks have room: push the loop stack and the PC stack (R350). -/
def pushLoop (a : Addr) (t : Term) (s : State) : State :=
  { s with seq := { s.seq with
      loopStack := { last := a, term := t } :: s.seq.loopStack
      pcStack := returnAddr s :: s.seq.pcStack } }

/-- Whether the current loop ends at address `a` (R353). -/
def sharesLoopEnd (a : Addr) (s : State) : Bool :=
  match s.seq.loopStack with
  | [] => false
  | e :: _ => e.last == a

/-- DO UNTIL (R350, R353): on a full stack only the overflow bits are set. -/
def enterLoop (a : Addr) (t : Term) (s : State) : Result State := do
  guardPcStack s
  let loopFull := decide (loopStackDepth ≤ s.seq.loopStack.length)
  let pcFull := decide (pcStackDepth ≤ s.seq.pcStack.length)
  if loopFull || pcFull then
    .ok { s with seq := { s.seq with loopOvf := s.seq.loopOvf || loopFull, pcOvf := s.seq.pcOvf || pcFull } }
  else if sharesLoopEnd a s then .error .loopEndRestriction
  else .ok (pushLoop a t s)

/-- Enter the idle state (R360). -/
def enterIdle (s : State) : State := setInt { s.int with idle := true } s

/-- `[IF cond] JUMP <addr>`: type 10, S = 0 (R331). -/
def execJump (a : Addr) (c : Cond) (s : State) : Answer :=
  answer (ifCond c (fun t => .ok (transferTo a t)) s)

/-- `[IF cond] CALL <addr>`: type 10, S = 1 (R333). -/
def execCall (a : Addr) (c : Cond) (s : State) : Answer :=
  answer (ifCond c (callTo a) s)

/-- `[IF cond] JUMP (I4|I5|I6|I7)`: type 19, S = 0 (R330). -/
def execJumpInd (i : BitVec 2) (c : Cond) (s : State) : Answer :=
  answer (ifCond c (fun t => .ok (transferTo (indirectTarget i t) t)) s)

/-- `[IF cond] CALL (I4|I5|I6|I7)`: type 19, S = 1 (R332). -/
def execCallInd (i : BitVec 2) (c : Cond) (s : State) : Answer :=
  answer (ifCond c (fun t => callTo (indirectTarget i t) t) s)

/-- `IF [NOT] FLAG_IN JUMP <addr>`: type 27, S = 0 (R334). -/
def execJumpFlag (a : Addr) (fic : Bool) (s : State) : Answer :=
  if s.ports.fi = fic then .next (transferTo a s) else .next s

/-- `IF [NOT] FLAG_IN CALL <addr>`: type 27, S = 1 (R334). -/
def execCallFlag (a : Addr) (fic : Bool) (s : State) : Answer :=
  if s.ports.fi = fic then answer (callTo a s) else .next s

/-- `[IF cond] SET|RESET|TOGGLE FLAG_OUT|FL0|FL1|FL2 [, ...]`: type 28 (R345). -/
def execFlagOut (fl2 : PinOp) (fl1 : PinOp) (fl0 : PinOp) (fo : PinOp) (c : Cond) (s : State) : Answer :=
  if usesFl fl2 fl1 fl0 && !s.cfg.member.hasFL then
    .fault (.unusedEncoding (encodeWith s.cfg.codes (.flagOut fl2 fl1 fl0 fo c)))
  else answer (ifCond c (fun t => .ok (drivePins fl2 fl1 fl0 fo t)) s)

/-- `[IF cond] RTS`: type 20, T = 0 (R340). -/
def execRts (c : Cond) (s : State) : Answer :=
  answer (ifCond c returnFromSub s)

/-- `[IF cond] RTI`: type 20, T = 1 (R341). -/
def execRti (c : Cond) (s : State) : Answer :=
  answer (ifCond c returnFromInterrupt s)

/-- `DO <addr> [UNTIL term]`: type 11 (R350). -/
def execDoUntil (a : Addr) (t : Term) (s : State) : Answer :=
  answer (enterLoop a t s)

/-- `IDLE`: type 31 (R360). -/
def execIdle (s : State) : Answer :=
  .next (enterIdle s)

/-- `IDLE (n)`: type 31, slow idle (R361). The divisor changes only time and
power, which the model does not carry (D30, log 25). -/
def execIdleN (_n : SlowDiv) (s : State) : Answer :=
  .next (enterIdle s)

end Sys2Proof.Machine
end

