-- ==== Sys2Proof/Machine/Misc.lean ====
section
/-! DEFINITION. The miscellaneous instructions (45_misc.md): stack control, interrupt enable, mode control, MODIFY and
NOP; and the row '(unused)'. -/

namespace Sys2Proof.Machine

/-- Perform an operation if its field asks for it. -/
def optionally (b : Bool) (op : State → Result State) (s : State) : Result State := if b then op s else .ok s

/-- The status stack action of Spp (R157, R370). -/
def stsAction (sp : StsOp) (s : State) : Result State :=
  match sp with
  | .keep | .keepAlt => .ok s
  | .push => pushSts s
  | .pop => popSts s

/-- POP PC: the value is discarded (R370, R372). -/
def dropPc (s : State) : Result State := do
  guardPcStack s
  let (_, t) ← popPc s
  .ok t

/-- POP LOOP: the value is discarded (R370, R372). -/
def dropLoop (s : State) : Result State := do
  let (_, t) ← popLoop s
  .ok t

/-- Stack control (R370). -/
def controlStacks (pp lp cp : Bool) (sp : StsOp) (s : State) : Result State := do
  let s ← stsAction sp s
  let s ← optionally cp popCntr s
  let s ← optionally pp dropPc s
  optionally lp dropLoop s

/-- MSTAT after one mode-control field has acted on bit `k` (R380). -/
def modeAfter (v : BitVec 7) (k : Nat) (op : ModeOp) : BitVec 7 :=
  match op with
  | .keep | .keepAlt => v
  | .dis => v &&& ~~~(1#7 <<< k)
  | .ena => v ||| (1#7 <<< k)

/-- MSTAT after a mode-control instruction (R380). -/
def modesAfter (ti mm sat ol br sr gm : ModeOp) (v : BitVec 7) : BitVec 7 :=
  modeAfter (modeAfter (modeAfter (modeAfter (modeAfter (modeAfter (modeAfter v 5 ti) 4 mm) 3 sat) 2 ol) 1 br) 0 sr) 6 gm

/-- Set the global interrupt enable (R61). -/
def setInts (b : Bool) (s : State) : State := setInt { s.int with ints := b } s

/-- `[PUSH STS | POP STS] [, POP CNTR] [, POP PC] [, POP LOOP]`: type 26 (R370). -/
def execStackControl (pp : Bool) (lp : Bool) (cp : Bool) (sp : StsOp) (s : State) : Answer :=
  answer (controlStacks pp lp cp sp s)

/-- `ENA INTS`: type 26 (special word) (R390). -/
def execEnaInts (s : State) : Answer :=
  needsExt (encodeWith s.cfg.codes .enaInts) (fun t => .next (setInts true t)) s

/-- `DIS INTS`: type 26 (special word) (R391). -/
def execDisInts (s : State) : Answer :=
  needsExt (encodeWith s.cfg.codes .disInts) (fun t => .next (setInts false t)) s

/-- `ENA|DIS mode [, ...]`: type 18 (R380). -/
def execModeControl (ti : ModeOp) (mm : ModeOp) (sat : ModeOp) (ol : ModeOp) (br : ModeOp) (sr : ModeOp) (gm : ModeOp) (s : State) : Answer :=
  .next (setMstat (modesAfter ti mm sat ol br sr gm s.mstat) s)

/-- `MODIFY (Ia, Mb)`: type 21 (R385). -/
def execModify (g : DagSel) (i : BitVec 2) (m : BitVec 2) (s : State) : Answer :=
  .next (postModify (dagIdx g i) (dagIdx g m) s)

/-- `NOP`: type 30 (R388). -/
def execNop (s : State) : Answer :=
  .next s

/-- `(unused)`: leading byte 0x08 (R133). No instruction: a model fault on every path (R160, D5). -/
def execUnused (u : BitVec 16) (s : State) : Answer :=
  have _ := s
  .fault (.unusedEncoding (encodeWith s.cfg.codes (.unused u)))

end Sys2Proof.Machine
end

