-- ==== Sys2Proof/Machine/Multi.lean ====
section
/-! DEFINITION. The multifunction instructions (46_multifunction.md): a computation and a transfer that both read the
state before the instruction, the destination sets of R402, and one meaning for each row of the opcode table. -/

namespace Sys2Proof.Machine

/-- The computation clause of the ALU and MAC forms (R403). -/
def computeOp (z : Dest) (op : AluMac) (s : State) : State :=
  match op with
  | .alu f y x => aluStep f z (aluX x (activeBank s)) (aluY y (activeBank s)) s
  | .mac f y x => macOp f z (macX x (activeBank s)) (macY y (activeBank s)) s

/-- The computation clause of the shifter forms (R403). -/
def computeShift (f : ShiftFn) (x : ShiftXop) (s : State) : State := shiftOp f (shiftX x (activeBank s)) s

/-- `cd` of an ALU or MAC clause: the data registers it writes (R402). -/
def computeDests (z : Dest) (op : AluMac) : List DReg :=
  match z, op with
  | .feedback, _ => []
  | .result, .alu _ _ _ => [.ar]
  | .result, .mac _ _ _ => [.mr0, .mr1, .mr2]

/-- `cd` of a shifter clause (R402). -/
def shiftDests (f : ShiftFn) : List DReg :=
  match f with
  | .lshift _ _ | .ashift _ _ | .norm _ _ => [.sr0, .sr1]
  | .expHi | .expHix | .expLo => [.se]
  | .expadj => []

/-- `td` of a transfer to a data register; a load of MR1 writes MR2 as well (R402). -/
def transferDests (d : DReg) : List DReg := if d = .mr1 then [.mr1, .mr2] else [d]

/-- Whether both clauses write one register (R402). -/
def clashes (cd : List DReg) (d : DReg) : Bool := cd.any fun r => (transferDests d).contains r

/-- A result, or the fault of R402 where both clauses write one register; the faults of the transfer come first, in
the order of R405. -/
def unlessClash (w : PmWord) (clash : Bool) (r : Result State) : Result State :=
  match r with
  | .error f => .error f
  | .ok t => if clash then .error (.sameDestination w) else .ok t

/-- `dreg = dreg` beside a computation: the source is read before the computation writes (R409, R410). -/
def moveBeside (compute : State → State) (d r : DReg) (s : State) : State :=
  writeDreg d (dregVal r (activeBank s)) (compute s)

/-- The two reads of type 1, program memory first (R98, R415). -/
def dualLoad (compute : State → State) (pd : PmDest) (dd : DmDest) (ap bp ad bd : DagIdx) (s : State) :
    Result State := do
  let (p, t) ← readPm (addrOut s ap) s
  let (v, t) ← readDm (addrOut s ad) t
  .ok (postModify ap bp (postModify ad bd
    (setPx (p.extractLsb' 0 8) (writeDreg (pmDestReg pd) (p.extractLsb' 8 16) (writeDreg (dmDestReg dd) v (compute t))))))

/-- `<ALU>|<MAC>, dreg = DM(Ia, Mb)`: type 4, D = 0 (R405). -/
def execCompReadDm (g : DagSel) (z : Dest) (op : AluMac) (d : DReg) (i : BitVec 2) (m : BitVec 2) (s : State) : Answer :=
  answer (unlessClash (encodeWith s.cfg.codes (.compReadDm g z op d i m)) (clashes (computeDests z op) d)
    (loadDmInd (computeOp z op) d (dagIdx g i) (dagIdx g m) s))

/-- `<ALU>|<MAC>, dreg = PM(Ia, Mb)`: type 5, D = 0 (R406). -/
def execCompReadPm (z : Dest) (op : AluMac) (d : DReg) (i : BitVec 2) (m : BitVec 2) (s : State) : Answer :=
  answer (unlessClash (encodeWith s.cfg.codes (.compReadPm z op d i m)) (clashes (computeDests z op) d)
    (loadPmInd (computeOp z op) d (dagIdx .dag2 i) (dagIdx .dag2 m) s))

/-- `<SHIFT>, dreg = DM(Ia, Mb)`: type 12, D = 0 (R407). -/
def execShiftReadDm (g : DagSel) (f : ShiftFn) (x : ShiftXop) (d : DReg) (i : BitVec 2) (m : BitVec 2) (s : State) : Answer :=
  answer (unlessClash (encodeWith s.cfg.codes (.shiftReadDm g f x d i m)) (clashes (shiftDests f) d)
    (loadDmInd (computeShift f x) d (dagIdx g i) (dagIdx g m) s))

/-- `<SHIFT>, dreg = PM(Ia, Mb)`: type 13, D = 0 (R408). -/
def execShiftReadPm (f : ShiftFn) (x : ShiftXop) (d : DReg) (i : BitVec 2) (m : BitVec 2) (s : State) : Answer :=
  answer (unlessClash (encodeWith s.cfg.codes (.shiftReadPm f x d i m)) (clashes (shiftDests f) d)
    (loadPmInd (computeShift f x) d (dagIdx .dag2 i) (dagIdx .dag2 m) s))

/-- `<ALU>|<MAC>, dreg = dreg`: type 8 (R409). -/
def execCompMove (z : Dest) (op : Option AluMac) (d : DReg) (r : DReg) (s : State) : Answer :=
  match op with
  | none =>
    if z = .result then .next (moveBeside id d r s)
    else .fault (.unusedEncoding (encodeWith s.cfg.codes (.compMove z none d r)))
  | some op =>
    answer (unlessClash (encodeWith s.cfg.codes (.compMove z (some op) d r)) (clashes (computeDests z op) d)
      (.ok (moveBeside (computeOp z op) d r s)))

/-- `<SHIFT>, dreg = dreg`: type 14 (R410). -/
def execShiftMove (f : ShiftFn) (x : ShiftXop) (d : DReg) (r : DReg) (s : State) : Answer :=
  answer (unlessClash (encodeWith s.cfg.codes (.shiftMove f x d r)) (clashes (shiftDests f) d)
    (.ok (moveBeside (computeShift f x) d r s)))

/-- `DM(Ia, Mb) = dreg, <ALU>|<MAC>`: type 4, D = 1 (R411). -/
def execCompWriteDm (g : DagSel) (z : Dest) (op : AluMac) (r : DReg) (i : BitVec 2) (m : BitVec 2) (s : State) : Answer :=
  answer (storeDmInd (computeOp z op) (dregVal r (activeBank s)) (dagIdx g i) (dagIdx g m) s)

/-- `PM(Ia, Mb) = dreg, <ALU>|<MAC>`: type 5, D = 1 (R412). -/
def execCompWritePm (z : Dest) (op : AluMac) (r : DReg) (i : BitVec 2) (m : BitVec 2) (s : State) : Answer :=
  answer (storePmInd (computeOp z op) (dregVal r (activeBank s)) (dagIdx .dag2 i) (dagIdx .dag2 m) s)

/-- `DM(Ia, Mb) = dreg, <SHIFT>`: type 12, D = 1 (R413). -/
def execShiftWriteDm (g : DagSel) (f : ShiftFn) (x : ShiftXop) (r : DReg) (i : BitVec 2) (m : BitVec 2) (s : State) : Answer :=
  answer (storeDmInd (computeShift f x) (dregVal r (activeBank s)) (dagIdx g i) (dagIdx g m) s)

/-- `PM(Ia, Mb) = dreg, <SHIFT>`: type 13, D = 1 (R414). -/
def execShiftWritePm (f : ShiftFn) (x : ShiftXop) (r : DReg) (i : BitVec 2) (m : BitVec 2) (s : State) : Answer :=
  answer (storePmInd (computeShift f x) (dregVal r (activeBank s)) (dagIdx .dag2 i) (dagIdx .dag2 m) s)

/-- `AX0|AX1|MX0|MX1 = DM(Ia, Mb), AY0|AY1|MY0|MY1 = PM(Ic, Md)`: type 1, AMF = 00000 (R415). -/
def execDualRead (pd : PmDest) (dd : DmDest) (pi : BitVec 2) (pm : BitVec 2) (di : BitVec 2) (dm : BitVec 2) (s : State) : Answer :=
  answer (dualLoad id pd dd (dagIdx .dag2 pi) (dagIdx .dag2 pm) (dagIdx .dag1 di) (dagIdx .dag1 dm) s)

/-- `<ALU>|<MAC>, AX0|AX1|MX0|MX1 = DM(Ia, Mb), AY0|AY1|MY0|MY1 = PM(Ic, Md)`: type 1 (R416). -/
def execCompDualRead (pd : PmDest) (dd : DmDest) (op : AluMac) (pi : BitVec 2) (pm : BitVec 2) (di : BitVec 2) (dm : BitVec 2) (s : State) : Answer :=
  answer (dualLoad (computeOp .result op) pd dd (dagIdx .dag2 pi) (dagIdx .dag2 pm) (dagIdx .dag1 di) (dagIdx .dag1 dm) s)

end Sys2Proof.Machine
end

