-- ==== Sys2Proof/Machine/Dispatch.lean ====
section
/-! DEFINITION. The dispatch: one arm for each instruction, in the order of the opcode table. -/

namespace Sys2Proof.Machine

/-- What an instruction does to the state, PC apart (R335). -/
def exec (i : Instr) (s : State) : Host.Outcome State Fault Refusal :=
  match i with
  | .aluPassY z y x c => Sys2Proof.Machine.execAluPassY z y x c s
  | .aluIncY z y x c => Sys2Proof.Machine.execAluIncY z y x c s
  | .aluAddC z y x c => Sys2Proof.Machine.execAluAddC z y x c s
  | .aluAdd z y x c => Sys2Proof.Machine.execAluAdd z y x c s
  | .aluNotY z y x c => Sys2Proof.Machine.execAluNotY z y x c s
  | .aluNegY z y x c => Sys2Proof.Machine.execAluNegY z y x c s
  | .aluSubXYBorrow z y x c => Sys2Proof.Machine.execAluSubXYBorrow z y x c s
  | .aluSubXY z y x c => Sys2Proof.Machine.execAluSubXY z y x c s
  | .aluDecY z y x c => Sys2Proof.Machine.execAluDecY z y x c s
  | .aluSubYX z y x c => Sys2Proof.Machine.execAluSubYX z y x c s
  | .aluSubYXBorrow z y x c => Sys2Proof.Machine.execAluSubYXBorrow z y x c s
  | .aluNotX z y x c => Sys2Proof.Machine.execAluNotX z y x c s
  | .aluAnd z y x c => Sys2Proof.Machine.execAluAnd z y x c s
  | .aluOr z y x c => Sys2Proof.Machine.execAluOr z y x c s
  | .aluXor z y x c => Sys2Proof.Machine.execAluXor z y x c s
  | .aluAbs z y x c => Sys2Proof.Machine.execAluAbs z y x c s
  | .aluAddK z n inv x c => Sys2Proof.Machine.execAluAddK z n inv x c s
  | .aluAddKC z n inv x c => Sys2Proof.Machine.execAluAddKC z n inv x c s
  | .aluSubXK z n inv x c => Sys2Proof.Machine.execAluSubXK z n inv x c s
  | .aluSubXKBorrow z n inv x c => Sys2Proof.Machine.execAluSubXKBorrow z n inv x c s
  | .aluSubKX z n inv x c => Sys2Proof.Machine.execAluSubKX z n inv x c s
  | .aluSubKXBorrow z n inv x c => Sys2Proof.Machine.execAluSubKXBorrow z n inv x c s
  | .aluPassK z n inv x c => Sys2Proof.Machine.execAluPassK z n inv x c s
  | .aluPassKInc z n inv x c => Sys2Proof.Machine.execAluPassKInc z n inv x c s
  | .aluPassKDec z n inv x c => Sys2Proof.Machine.execAluPassKDec z n inv x c s
  | .aluTstbit z n x c => Sys2Proof.Machine.execAluTstbit z n x c s
  | .aluClrbit z n x c => Sys2Proof.Machine.execAluClrbit z n x c s
  | .aluSetbit z n x c => Sys2Proof.Machine.execAluSetbit z n x c s
  | .aluOrNotBit z n x c => Sys2Proof.Machine.execAluOrNotBit z n x c s
  | .aluTglbit z n x c => Sys2Proof.Machine.execAluTglbit z n x c s
  | .aluXorNotBit z n x c => Sys2Proof.Machine.execAluXorNotBit z n x c s
  | .aluNotK z n inv x c => Sys2Proof.Machine.execAluNotK z n inv x c s
  | .aluNegK z n inv x c => Sys2Proof.Machine.execAluNegK z n inv x c s
  | .aluNotXK z n inv x c => Sys2Proof.Machine.execAluNotXK z n inv x c s
  | .aluAbsK z n inv x c => Sys2Proof.Machine.execAluAbsK z n inv x c s
  | .divs y x => Sys2Proof.Machine.execDivs y x s
  | .divq x => Sys2Proof.Machine.execDivq x s
  | .noneAlu f y x => Sys2Proof.Machine.execNoneAlu f y x s
  | .macMulRnd z y x c => Sys2Proof.Machine.execMacMulRnd z y x c s
  | .macMulSs z y x c => Sys2Proof.Machine.execMacMulSs z y x c s
  | .macMulSu z y x c => Sys2Proof.Machine.execMacMulSu z y x c s
  | .macMulUs z y x c => Sys2Proof.Machine.execMacMulUs z y x c s
  | .macMulUu z y x c => Sys2Proof.Machine.execMacMulUu z y x c s
  | .macAddRnd z y x c => Sys2Proof.Machine.execMacAddRnd z y x c s
  | .macAddSs z y x c => Sys2Proof.Machine.execMacAddSs z y x c s
  | .macAddSu z y x c => Sys2Proof.Machine.execMacAddSu z y x c s
  | .macAddUs z y x c => Sys2Proof.Machine.execMacAddUs z y x c s
  | .macAddUu z y x c => Sys2Proof.Machine.execMacAddUu z y x c s
  | .macSubRnd z y x c => Sys2Proof.Machine.execMacSubRnd z y x c s
  | .macSubSs z y x c => Sys2Proof.Machine.execMacSubSs z y x c s
  | .macSubSu z y x c => Sys2Proof.Machine.execMacSubSu z y x c s
  | .macSubUs z y x c => Sys2Proof.Machine.execMacSubUs z y x c s
  | .macSubUu z y x c => Sys2Proof.Machine.execMacSubUu z y x c s
  | .macSqrMulRnd z x c => Sys2Proof.Machine.execMacSqrMulRnd z x c s
  | .macSqrMulSs z x c => Sys2Proof.Machine.execMacSqrMulSs z x c s
  | .macSqrMulUu z x c => Sys2Proof.Machine.execMacSqrMulUu z x c s
  | .macSqrAddRnd z x c => Sys2Proof.Machine.execMacSqrAddRnd z x c s
  | .macSqrAddSs z x c => Sys2Proof.Machine.execMacSqrAddSs z x c s
  | .macSqrAddUu z x c => Sys2Proof.Machine.execMacSqrAddUu z x c s
  | .macSqrSubRnd z x c => Sys2Proof.Machine.execMacSqrSubRnd z x c s
  | .macSqrSubSs z x c => Sys2Proof.Machine.execMacSqrSubSs z x c s
  | .macSqrSubUu z x c => Sys2Proof.Machine.execMacSqrSubUu z x c s
  | .satMr => Sys2Proof.Machine.execSatMr s
  | .lshiftHi x c => Sys2Proof.Machine.execLshiftHi x c s
  | .lshiftHiOr x c => Sys2Proof.Machine.execLshiftHiOr x c s
  | .lshiftLo x c => Sys2Proof.Machine.execLshiftLo x c s
  | .lshiftLoOr x c => Sys2Proof.Machine.execLshiftLoOr x c s
  | .ashiftHi x c => Sys2Proof.Machine.execAshiftHi x c s
  | .ashiftHiOr x c => Sys2Proof.Machine.execAshiftHiOr x c s
  | .ashiftLo x c => Sys2Proof.Machine.execAshiftLo x c s
  | .ashiftLoOr x c => Sys2Proof.Machine.execAshiftLoOr x c s
  | .normHi x c => Sys2Proof.Machine.execNormHi x c s
  | .normHiOr x c => Sys2Proof.Machine.execNormHiOr x c s
  | .normLo x c => Sys2Proof.Machine.execNormLo x c s
  | .normLoOr x c => Sys2Proof.Machine.execNormLoOr x c s
  | .expHi x c => Sys2Proof.Machine.execExpHi x c s
  | .expHix x c => Sys2Proof.Machine.execExpHix x c s
  | .expLo x c => Sys2Proof.Machine.execExpLo x c s
  | .expadj x c => Sys2Proof.Machine.execExpadj x c s
  | .lshiftImmHi x e => Sys2Proof.Machine.execLshiftImmHi x e s
  | .lshiftImmHiOr x e => Sys2Proof.Machine.execLshiftImmHiOr x e s
  | .lshiftImmLo x e => Sys2Proof.Machine.execLshiftImmLo x e s
  | .lshiftImmLoOr x e => Sys2Proof.Machine.execLshiftImmLoOr x e s
  | .ashiftImmHi x e => Sys2Proof.Machine.execAshiftImmHi x e s
  | .ashiftImmHiOr x e => Sys2Proof.Machine.execAshiftImmHiOr x e s
  | .ashiftImmLo x e => Sys2Proof.Machine.execAshiftImmLo x e s
  | .ashiftImmLoOr x e => Sys2Proof.Machine.execAshiftImmLoOr x e s
  | .moveFromTop d => Sys2Proof.Machine.execMoveFromTop d s
  | .moveToTop r => Sys2Proof.Machine.execMoveToTop r s
  | .moveReg d r => Sys2Proof.Machine.execMoveReg d r s
  | .loadDreg v d => Sys2Proof.Machine.execLoadDreg v d s
  | .loadReg v d => Sys2Proof.Machine.execLoadReg v d s
  | .readDm a d => Sys2Proof.Machine.execReadDm a d s
  | .writeDm a r => Sys2Proof.Machine.execWriteDm a r s
  | .readDmInd g d ix m => Sys2Proof.Machine.execReadDmInd g d ix m s
  | .writeDmInd g r ix m => Sys2Proof.Machine.execWriteDmInd g r ix m s
  | .writeDmImm g v ix m => Sys2Proof.Machine.execWriteDmImm g v ix m s
  | .readPmInd d ix m => Sys2Proof.Machine.execReadPmInd d ix m s
  | .writePmInd r ix m => Sys2Proof.Machine.execWritePmInd r ix m s
  | .readIo a d => Sys2Proof.Machine.execReadIo a d s
  | .writeIo a r => Sys2Proof.Machine.execWriteIo a r s
  | .jump a c => Sys2Proof.Machine.execJump a c s
  | .call a c => Sys2Proof.Machine.execCall a c s
  | .jumpInd ix c => Sys2Proof.Machine.execJumpInd ix c s
  | .callInd ix c => Sys2Proof.Machine.execCallInd ix c s
  | .jumpFlag a fic => Sys2Proof.Machine.execJumpFlag a fic s
  | .callFlag a fic => Sys2Proof.Machine.execCallFlag a fic s
  | .flagOut fl2 fl1 fl0 fo c => Sys2Proof.Machine.execFlagOut fl2 fl1 fl0 fo c s
  | .rts c => Sys2Proof.Machine.execRts c s
  | .rti c => Sys2Proof.Machine.execRti c s
  | .doUntil a t => Sys2Proof.Machine.execDoUntil a t s
  | .idle => Sys2Proof.Machine.execIdle s
  | .idleN n => Sys2Proof.Machine.execIdleN n s
  | .stackControl pp lp cp sp => Sys2Proof.Machine.execStackControl pp lp cp sp s
  | .enaInts => Sys2Proof.Machine.execEnaInts s
  | .disInts => Sys2Proof.Machine.execDisInts s
  | .modeControl ti mm sat ol br sr gm => Sys2Proof.Machine.execModeControl ti mm sat ol br sr gm s
  | .modify g ix m => Sys2Proof.Machine.execModify g ix m s
  | .nop => Sys2Proof.Machine.execNop s
  | .compReadDm g z op d ix m => Sys2Proof.Machine.execCompReadDm g z op d ix m s
  | .compReadPm z op d ix m => Sys2Proof.Machine.execCompReadPm z op d ix m s
  | .shiftReadDm g f x d ix m => Sys2Proof.Machine.execShiftReadDm g f x d ix m s
  | .shiftReadPm f x d ix m => Sys2Proof.Machine.execShiftReadPm f x d ix m s
  | .compMove z op d r => Sys2Proof.Machine.execCompMove z op d r s
  | .shiftMove f x d r => Sys2Proof.Machine.execShiftMove f x d r s
  | .compWriteDm g z op r ix m => Sys2Proof.Machine.execCompWriteDm g z op r ix m s
  | .compWritePm z op r ix m => Sys2Proof.Machine.execCompWritePm z op r ix m s
  | .shiftWriteDm g f x r ix m => Sys2Proof.Machine.execShiftWriteDm g f x r ix m s
  | .shiftWritePm f x r ix m => Sys2Proof.Machine.execShiftWritePm f x r ix m s
  | .dualRead pd dd pi pm di dm => Sys2Proof.Machine.execDualRead pd dd pi pm di dm s
  | .compDualRead pd dd op pi pm di dm => Sys2Proof.Machine.execCompDualRead pd dd op pi pm di dm s
  | .unused u => Sys2Proof.Machine.execUnused u s

end Sys2Proof.Machine
end

