-- ==== Sys2Proof/Machine/Hazards.lean ====
section
/-! DEFINITION. Which instructions the model does not allow as the last one of a loop (44_program_flow.md R337). -/

namespace Sys2Proof.Machine

/-- What an instruction may not be at a loop-end address (R337): never allowed, or, where it touches CNTR, not in a CE
loop. -/
inductive LoopEndUse where
  | forbidden
  | cntr (touches : Bool)
  deriving DecidableEq, Repr

/-- CNTR under either of its names (R44). -/
def namesCntr (r : Reg) : Bool := r == .cntr || r == .owrcntr

/-- How an instruction stands to R337: IDLE, DO UNTIL, the TOPPCSTACK forms, POP PC and POP LOOP are never allowed at
a loop end; a move with CNTR or OWRCNTR, POP CNTR and the condition NOT CE touch CNTR. -/
def loopEndUse (i : Instr) : LoopEndUse :=
  match i with
  | .idle | .idleN _ | .doUntil _ _ | .moveFromTop _ | .moveToTop _ => .forbidden
  | .stackControl pp lp cp _ => if pp || lp then .forbidden else .cntr cp
  | .moveReg d r => .cntr (namesCntr d || namesCntr r)
  | .loadReg _ d => .cntr (namesCntr d)
  | .readDm _ d => .cntr (namesCntr d)
  | .writeDm _ r => .cntr (namesCntr r)
  | .aluPassY _ _ _ c | .aluIncY _ _ _ c | .aluAddC _ _ _ c | .aluAdd _ _ _ c | .aluNotY _ _ _ c
  | .aluNegY _ _ _ c | .aluSubXYBorrow _ _ _ c | .aluSubXY _ _ _ c | .aluDecY _ _ _ c | .aluSubYX _ _ _ c
  | .aluSubYXBorrow _ _ _ c | .aluNotX _ _ _ c | .aluAnd _ _ _ c | .aluOr _ _ _ c | .aluXor _ _ _ c
  | .aluAbs _ _ _ c | .aluAddK _ _ _ _ c | .aluAddKC _ _ _ _ c | .aluSubXK _ _ _ _ c
  | .aluSubXKBorrow _ _ _ _ c | .aluSubKX _ _ _ _ c | .aluSubKXBorrow _ _ _ _ c | .aluPassK _ _ _ _ c
  | .aluPassKInc _ _ _ _ c | .aluPassKDec _ _ _ _ c | .aluTstbit _ _ _ c | .aluClrbit _ _ _ c
  | .aluSetbit _ _ _ c | .aluOrNotBit _ _ _ c | .aluTglbit _ _ _ c | .aluXorNotBit _ _ _ c | .aluNotK _ _ _ _ c
  | .aluNegK _ _ _ _ c | .aluNotXK _ _ _ _ c | .aluAbsK _ _ _ _ c | .macMulRnd _ _ _ c | .macMulSs _ _ _ c
  | .macMulSu _ _ _ c | .macMulUs _ _ _ c | .macMulUu _ _ _ c | .macAddRnd _ _ _ c | .macAddSs _ _ _ c
  | .macAddSu _ _ _ c | .macAddUs _ _ _ c | .macAddUu _ _ _ c | .macSubRnd _ _ _ c | .macSubSs _ _ _ c
  | .macSubSu _ _ _ c | .macSubUs _ _ _ c | .macSubUu _ _ _ c | .macSqrMulRnd _ _ c | .macSqrMulSs _ _ c
  | .macSqrMulUu _ _ c | .macSqrAddRnd _ _ c | .macSqrAddSs _ _ c | .macSqrAddUu _ _ c | .macSqrSubRnd _ _ c
  | .macSqrSubSs _ _ c | .macSqrSubUu _ _ c | .lshiftHi _ c | .lshiftHiOr _ c | .lshiftLo _ c | .lshiftLoOr _ c
  | .ashiftHi _ c | .ashiftHiOr _ c | .ashiftLo _ c | .ashiftLoOr _ c | .normHi _ c | .normHiOr _ c
  | .normLo _ c | .normLoOr _ c | .expHi _ c | .expHix _ c | .expLo _ c | .expadj _ c | .jump _ c | .call _ c
  | .jumpInd _ c | .callInd _ c | .flagOut _ _ _ _ c | .rts c | .rti c => .cntr (c == .notCe)
  | .divs _ _ | .divq _ | .noneAlu _ _ _ | .satMr | .lshiftImmHi _ _ | .lshiftImmHiOr _ _ | .lshiftImmLo _ _
  | .lshiftImmLoOr _ _ | .ashiftImmHi _ _ | .ashiftImmHiOr _ _ | .ashiftImmLo _ _ | .ashiftImmLoOr _ _
  | .loadDreg _ _ | .readDmInd _ _ _ _ | .writeDmInd _ _ _ _ | .writeDmImm _ _ _ _ | .readPmInd _ _ _
  | .writePmInd _ _ _ | .readIo _ _ | .writeIo _ _ | .jumpFlag _ _ | .callFlag _ _ | .enaInts | .disInts
  | .modeControl _ _ _ _ _ _ _ | .modify _ _ _ | .nop | .compReadDm _ _ _ _ _ _ | .compReadPm _ _ _ _ _
  | .shiftReadDm _ _ _ _ _ _ | .shiftReadPm _ _ _ _ _ | .compMove _ _ _ _ | .shiftMove _ _ _ _
  | .compWriteDm _ _ _ _ _ _ | .compWritePm _ _ _ _ _ | .shiftWriteDm _ _ _ _ _ _ | .shiftWritePm _ _ _ _ _
  | .dualRead _ _ _ _ _ _ | .compDualRead _ _ _ _ _ _ _ | .unused _ => .cntr false

/-- The entry of the loop whose last instruction is at PC: only the top of the loop stack is compared (R351). -/
def atLoopEnd (s : State) : Option LoopEntry :=
  match s.seq.loopStack with
  | [] => none
  | e :: _ => if e.last = s.seq.pc then some e else none

/-- Whether the instruction at PC may not stand there (R337). -/
def loopEndRestricted (i : Instr) (s : State) : Bool :=
  match atLoopEnd s with
  | none => false
  | some e =>
    match loopEndUse i with
    | .forbidden => true
    | .cntr touches => touches && e.term == .ce

end Sys2Proof.Machine
end

