-- ==== Sys2Proof/Machine/Sequencer.lean ====
section
/-! DEFINITION. The program sequencer (44_program_flow.md R335): interrupt dispatch (60_exceptions.md R443 to R446),
the fetch (20_memory.md R94, R100), the loop-end test and the next PC (R351, R352), the delayed pop
(70_reset_and_hazards.md R481), and the running of one decoded instruction. -/

namespace Sys2Proof.Machine

/-! Interrupt dispatch. -/

/-- Whether source number `k` requests service in this step; the timer's only while MSTAT.TIMER is 1 (R445, R452). -/
def requested (s : State) (k : Nat) (src : IntSource) : Bool :=
  (!src.timer || timerOn s) && Config.irqRequest s.steps k

/-- Whether a source is pending in this step: its latch is set or it requests now (R443). -/
def pendingNow (s : State) (k : Nat) (src : IntSource) (latch : Bool) : Bool := latch || requested s k src

/-- The latch of one source after the requests are sampled: an edge-sensitive request is latched, a level-sensitive
one is not, so that it is forgotten when it is withdrawn (R442, R443, R445, log 7). -/
def sampledLatch (s : State) (k : Nat) (src : IntSource) (latch : Bool) : Bool :=
  if sourceIsEdge s.int.icntl src then pendingNow s k src latch else latch

/-- A value for each source from number `k` on, from its record and its latch. -/
def mapSources (f : Nat → IntSource → Bool → Bool) : Nat → List IntSource → List Bool → List Bool
  | _, [], _ => []
  | k, src :: rest, latches => f k src (latches.headD false) :: mapSources f (k + 1) rest latches.tail

/-- Which sources are pending in this step (R443). -/
def pendingSources (s : State) : List Bool := mapSources (pendingNow s) 0 s.cfg.intTable s.int.irqPending

/-- The state after the interrupt requests of this step are sampled (R443). -/
def sampleRequests (s : State) : State :=
  setInt { s.int with irqPending := mapSources (sampledLatch s) 0 s.cfg.intTable s.int.irqPending } s

/-- The pending and unmasked source of highest priority, with its number (R443). -/
def firstCandidate (imask : Word) : Nat → List IntSource → List Bool → Option (Nat × IntSource)
  | _, [], _ => none
  | k, src :: rest, pend =>
    if imask.getLsbD src.maskBit && pend.headD false then some (k, src) else firstCandidate imask (k + 1) rest pend.tail

/-- Whether interrupts are enabled as a whole; without `hasExt` the bit INTS is constant 1 (R61). -/
def intsEnabled (s : State) : Bool := s.int.ints || !s.cfg.member.hasExt

/-- The interrupt to be taken in this step, if any (R443). -/
def interruptToTake (s : State) : Option (Nat × IntSource) :=
  if intsEnabled s then firstCandidate s.int.imask 0 s.cfg.intTable (pendingSources s) else none

/-- Take the interrupt, unless a pop of the PC stack is pending (R443, R481). -/
def takeUnlessPopPending (k : Nat) (src : IntSource) (s : State) : Result State :=
  if s.seq.pcPopPending then
    match s.cfg.topPcPopInt with
    | .fault => .error .pcPopHazard
    | .hold => .ok s
  else takeInterrupt k src s

/-- `dispatchInterrupt` (R443). -/
def dispatchInterrupt (s : State) : Result State :=
  match interruptToTake s with
  | none => .ok (sampleRequests s)
  | some (k, src) => takeUnlessPopPending k src (sampleRequests s)

/-! Fetch. -/

/-- The instruction word at PC (R94), unless the instruction before wrote it (R100). -/
def fetch (s : State) : Result (PmWord × State) :=
  if s.mem.pmWritten = some s.seq.pc then .error (.selfModifyHazard s.seq.pc) else readPm s.seq.pc s

/-! One instruction. -/

/-- The state an instruction executes on: at a loop end the termination condition has been evaluated, no transfer and
no PM write has been noted yet, and the FI pin is latched (R335, R49). -/
def beginInstr (s : State) : State :=
  let t := match atLoopEnd s with
    | none => s
    | some e => afterTerm e.term s
  { t with
    seq := { t.seq with transfer := none }
    ports := { t.ports with fi := Config.fiInput s.steps }
    mem := { t.mem with pmWritten := none } }

/-- CNTR at the exit of a CE loop: popped from the counter stack, or free where that is empty, where R352 and D18 call
it unwritten (logs 1 and 12). It stays loaded in the sense of R41 (DESIGN CHOICE, log 28). -/
def cntrAfterLoop (s : State) : State :=
  match s.seq.cntrStack with
  | [] => countDraw { s with seq := { s.seq with cntr := Config.freeCntr s.draws } }
  | v :: rest => { s with seq := { s.seq with cntr := v, cntrStack := rest } }

/-- `loopExit` (R352). -/
def loopExit (s : State) : Result State := do
  let (e, t) ← popLoop s
  let (_, t) ← popPc t
  .ok (if e.term = .ce then cntrAfterLoop t else t)

/-- The next PC after the instruction at `s`, whose effects gave `t` (R335, R351, R352). -/
def advance (s t : State) : Result State :=
  match t.seq.transfer with
  | some a => .ok (setPc a t)
  | none =>
    match atLoopEnd s with
    | none => .ok (setPc (s.seq.pc + 1) t)
    | some e =>
      if termHolds e.term s then do
        let u ← loopExit t
        .ok (setPc (s.seq.pc + 1) u)
      else do
        let a ← topPc t
        .ok (setPc a t)

/-- The pop that was pending before the instruction (R481). -/
def delayedPop (s t : State) : Result State :=
  if s.seq.pcPopPending then do
    let (_, u) ← popPc t
    .ok { u with seq := { u.seq with pcPopPending := false } }
  else .ok t

/-- The end of a step: one more sample of the environment is used up, and no transfer is left. -/
def tick (s : State) : State := { s with steps := s.steps + 1, seq := { s.seq with transfer := none } }

/-- The sequencer's part of a step after the instruction at `s` has given `t` (R335). -/
def completeInstr (s t : State) : Result State := do
  let u ← advance s t
  let u ← delayedPop s u
  .ok (tick u)

/-- Run the decoded instruction `i` at `s` (R335, R337, R481). -/
def runInstr (i : Instr) (s : State) : Answer :=
  if loopEndRestricted i s then .fault .loopEndRestriction
  else if s.seq.pcPopPending && (atLoopEnd s).isSome then .fault .pcPopHazard
  else
    match exec i (beginInstr s) with
    | .next t => answer (completeInstr s t)
    | .fault f => .fault f
    | .refused r => .refused r

/-- Fetch, decode and run the instruction at PC (R335). -/
def runNext (s : State) : Answer :=
  match fetch s with
  | .error f => .fault f
  | .ok (w, t) =>
    match decodeWith s.cfg.codes w with
    | .error _ => .fault (.unusedEncoding w)
    | .ok i => runInstr i t

end Sys2Proof.Machine
end

