-- ==== Sys2Proof/Machine/Step.lean ====
section
/-! DEFINITION. One step of the processor (44_program_flow.md R335), and the placing of a word where the next step
fetches. -/

namespace Sys2Proof.Machine

/-- `step` (R335): dispatch an interrupt, and unless the processor is idle execute the instruction at PC. -/
def step (s : State) : Host.Outcome State Fault Refusal :=
  match dispatchInterrupt s with
  | .error f => .fault f
  | .ok t => if t.int.idle then .next (tick t) else runNext t

/-- The instruction word `w` of `nbits` bits stored in program memory at PC, so that the next step fetches it: the
load of a program from outside the machine (R472, log 14). -/
def State.withFetchWord (s : State) (nbits w : Nat) : State :=
  { s with
    mem := { s.mem with pm := s.mem.pm.write s.seq.pc.toNat (BitVec.ofNat 24 (w % 2 ^ nbits)), pmWritten := none }
    int := { s.int with idle := false } }

end Sys2Proof.Machine
end

