-- ==== Sys2Proof/Safety.lean ====
section
/-! DEFINITION. What the claims speak of: the states of the machine that are well shaped, and the conventions for the
end of a run (44_program_flow.md R362). -/

namespace Sys2Proof.Machine

/-- IMASK and ICNTL hold no bit outside their widths, and ICNTL bit 3 is 0 (R39, R441). -/
def masksWf (cfg : Config) (imask icntl : Word) : Bool :=
  lowBits cfg.imaskBits imask == imask && icntlOf cfg.icntlBits icntl == icntl

/-- No stack holds more entries than its depth, and every saved IMASK fits its width (R55 to R58). -/
def stacksWf (cfg : Config) (q : Sequencer) : Bool :=
  decide (q.pcStack.length ≤ pcStackDepth) && (decide (q.loopStack.length ≤ loopStackDepth) &&
    (decide (q.cntrStack.length ≤ cfg.cntrStackDepth) && (decide (q.stsStack.length ≤ cfg.stsStackDepth) &&
      q.stsStack.all fun e => lowBits cfg.imaskBits e.imask == e.imask)))

/-- A pending pop has an entry to pop, and no transfer is left between steps (R481, R335). -/
def hazardsWf (q : Sequencer) : Bool := (!q.pcPopPending || !q.pcStack.isEmpty) && q.transfer.isNone

/-- A well-shaped state: both memories in canonical form, the stacks within their depths, the interrupt registers
within their widths with one latch a source, and a pending pop that can be made. Every state a run reaches is one. -/
def wellShaped (s : State) : Bool :=
  s.mem.pm.wf && (s.mem.dm.wf && (stacksWf s.cfg s.seq && (masksWf s.cfg s.int.imask s.int.icntl &&
    (decide (s.int.irqPending.length = s.cfg.intTable.length) && hazardsWf s.seq))))

/-- No interrupt can be taken whatever the environment requests: INTS is 0, or every source is masked (R61, R443). -/
def interruptsBlocked (s : State) : Bool :=
  !intsEnabled s || s.cfg.intTable.all fun src => !s.int.imask.getLsbD src.maskBit

/-- No interrupt will be taken while the processor idles or jumps to itself: INTS is 0, or no unmasked source is pending
now or in any later step, whatever the environment does with the masked ones (R362 a and b, R443, R445). An idle step
and a jump change neither the masks nor MSTAT, so the state of this step decides. -/
def noInterruptToCome (s : State) : Prop :=
  intsEnabled s = false ∨
  ∀ (k : Nat) (src : IntSource), s.cfg.intTable[k]? = some src → s.int.imask.getLsbD src.maskBit = true →
    ∀ n : Nat, s.steps ≤ n →
      pendingNow { s with steps := n } k src (s.int.irqPending[k]?.getD false) = false

/-- The target of an unconditional JUMP, direct or through I4 to I7 (R330, R331). -/
def jumpTarget (i : Instr) (s : State) : Option Addr :=
  match i with
  | .jump a .always => some a
  | .jumpInd n .always => some s.dag.i[dagIdx .dag2 n]
  | _ => none

/-- The instruction at PC is an unconditional JUMP to its own address (R362 b). -/
def jumpsToItself (s : State) : Bool :=
  match fetch s with
  | .error _ => false
  | .ok (w, _) =>
    match decodeWith s.cfg.codes w with
    | .error _ => false
    | .ok i => jumpTarget i s == some s.seq.pc

/-- The end of a run by the conventions of R362: (a) idle, or (b) jumping to itself, with no interrupt to come; or
(c) PC at `END_PC`. -/
def finished (s : State) : Prop :=
  (noInterruptToCome s ∧ (s.int.idle = true ∨ jumpsToItself s = true)) ∨ s.cfg.endPc = some s.seq.pc

/-- A run of `n` steps from `s` that meets no fault and no refusal. -/
def safeFor (n : Nat) (s : State) : Prop :=
  match n with
  | 0 => True
  | k + 1 => ∃ t, step s = .next t ∧ safeFor k t

end Sys2Proof.Machine
end

