-- ==== Sys2Proof/Certificates/Slice0/Vocabulary.lean ====
section
/-! DEFINITION. The words the statements are written in: what the spec says a computation, a shift, an access or a
stack operation gives, said a second time in terms of integers, single bits and single words, apart from the model's
own definitions of them. -/

namespace Sys2Proof.Machine.Claims

/-! The ALU (40_alu.md R170 to R172). -/

/-- The exact integer an ALU function stands for, its operands read as signed numbers. -/
def aluExact (f : AluFn) (x y : Word) (c : Bool) : Int :=
  match f with
  | .passY => y.toInt
  | .incY => y.toInt + 1
  | .addC => x.toInt + y.toInt + c.toNat
  | .add => x.toInt + y.toInt
  | .notY => -y.toInt - 1
  | .negY => -y.toInt
  | .subXYBorrow => x.toInt - y.toInt + c.toNat - 1
  | .subXY => x.toInt - y.toInt
  | .decY => y.toInt - 1
  | .subYX => y.toInt - x.toInt
  | .subYXBorrow => y.toInt - x.toInt + c.toNat - 1
  | .notX => -x.toInt - 1
  | .andXY => (x &&& y).toInt
  | .orXY => (x ||| y).toInt
  | .xorXY => (x ^^^ y).toInt
  | .absX => x.toInt.natAbs

/-- The carry of an ALU function: a sum of unsigned numbers that reaches 2^16, or a difference without borrow. -/
def aluCarries (f : AluFn) (x y : Word) (c : Bool) : Bool :=
  match f with
  | .incY => decide (2 ^ 16 ≤ y.toNat + 1)
  | .addC => decide (2 ^ 16 ≤ x.toNat + y.toNat + c.toNat)
  | .add => decide (2 ^ 16 ≤ x.toNat + y.toNat)
  | .negY => decide (y.toNat = 0)
  | .subXYBorrow => decide (y.toNat + 1 ≤ x.toNat + c.toNat)
  | .subXY => decide (y.toNat ≤ x.toNat)
  | .decY => decide (1 ≤ y.toNat)
  | .subYX => decide (x.toNat ≤ y.toNat)
  | .subYXBorrow => decide (x.toNat + 1 ≤ y.toNat + c.toNat)
  | .passY | .notY | .notX | .andXY | .orXY | .xorXY | .absX => false

/-- An exact result outside the signed 16-bit numbers: an arithmetic overflow (R33). -/
def overflows16 (e : Int) : Bool := decide (e < -32768) || decide (32768 ≤ e)

/-- The 16-bit result of an ALU function: the exact integer modulo 2^16. -/
def aluWord (f : AluFn) (x y : Word) (c : Bool) : Word := BitVec.ofInt 16 (aluExact f x y c)

/-- AZ, AN, AV, AC, and AS for ABS, as the ALU function gives them; the other flags are kept (R171). -/
def AluStatus (f : AluFn) (x y : Word) (s t : State) : Prop :=
  flagAz t = decide (aluWord f x y (flagAc s) = 0) ∧ flagAn t = (aluWord f x y (flagAc s)).msb ∧
  flagAv t = ((avLatch s && flagAv s) || overflows16 (aluExact f x y (flagAc s))) ∧
  flagAc t = aluCarries f x y (flagAc s) ∧ flagAs t = (if f = .absX then x.msb else flagAs s) ∧
  flagAq t = flagAq s ∧ flagMv t = flagMv s ∧ flagSs t = flagSs s

/-- The value AR receives where no draw is taken: full scale on an overflow under AR_SAT (R172). -/
def arReceives (f : AluFn) (x y : Word) (s : State) : Word :=
  if arSat s && overflows16 (aluExact f x y (flagAc s)) then
    if aluCarries f x y (flagAc s) then 0x8000#16 else 0x7FFF#16
  else aluWord f x y (flagAc s)

/-- The one situation in which AR's value is a draw: AR_SAT and AV_LATCH set, AV set, and no overflow now (R172). -/
def arIsDrawn (f : AluFn) (x y : Word) (s : State) : Bool :=
  arSat s && avLatch s && flagAv s && !overflows16 (aluExact f x y (flagAc s))

/-- An ALU result written to AF or AR, and nothing else but ASTAT (R173, R174). In the one situation of a draw AR
receives the plain result or full scale. -/
def AluEffect (f : AluFn) (z : Dest) (x y : Word) (s t : State) : Prop :=
  AluStatus f x y s t ∧
  match z with
  | .feedback => t = setAstat t.astat (setBank { activeBank s with af := aluWord f x y (flagAc s) } s)
  | .result =>
    if arIsDrawn f x y s then
      ∃ v : Word, (v = aluWord f x y (flagAc s) ∨
          v = if aluCarries f x y (flagAc s) then 0x8000#16 else 0x7FFF#16) ∧
        t = countDraw (setAstat t.astat (setBank { activeBank s with ar := v } s))
    else t = setAstat t.astat (setBank { activeBank s with ar := arReceives f x y s } s)

/-! The multiplier (41_mac.md R230 to R234). -/

/-- The product as an integer: the format says which operand is signed; fractional mode doubles it. -/
def productOf (f : MacFmt) (integer : Bool) (x y : Word) : Int :=
  (if f = .us ∨ f = .uu then (x.toNat : Int) else x.toInt) *
    (if f = .su ∨ f = .uu then (y.toNat : Int) else y.toInt) * (if integer then 1 else 2)

/-- The exact sum of a MAC function before it is reduced modulo 2^40. -/
def macExact (f : MacFn) (integer : Bool) (acc : Acc) (x y : Word) : Int :=
  match f.op with
  | .mul => productOf f.fmt integer x y
  | .add => acc.toInt + productOf f.fmt integer x y
  | .sub => acc.toInt - productOf f.fmt integer x y

/-- Rounding of a number below 2^40: add half of bit 16; exactly half way, unless biased, take the even one. -/
def roundNat (biased : Bool) (n : Nat) : Nat :=
  let r := (n + 0x8000) % 2 ^ 40
  if n % 2 ^ 16 = 0x8000 ∧ biased = false then r - r / 2 ^ 16 % 2 * 2 ^ 16 else r

/-- The 40-bit result of a MAC function, as an unsigned number. -/
def macNat (f : MacFn) (integer biased : Bool) (acc : Acc) (x y : Word) : Nat :=
  let n := (macExact f integer acc x y % 2 ^ 40).toNat
  if f.fmt = .rnd then roundNat biased n else n

/-- Whether a 40-bit pattern, read as signed, needs more than 32 bits (R234). -/
def needs33 (n : Nat) : Bool := decide (2 ^ 31 ≤ n) && decide (n < 2 ^ 40 - 2 ^ 31)

/-- A MAC result written to MR or MF, with MV, and nothing else (R234, R241). -/
def MacEffect (f : MacFn) (z : Dest) (x y : Word) (s t : State) : Prop :=
  let n := macNat f (mMode s) (biasedRounding s) (mrOf (activeBank s)) x y
  flagMv t = needs33 n ∧ flagAz t = flagAz s ∧ flagAn t = flagAn s ∧ flagAv t = flagAv s ∧ flagAc t = flagAc s ∧
  flagAs t = flagAs s ∧ flagAq t = flagAq s ∧ flagSs t = flagSs s ∧
  match z with
  | .result =>
    t = setAstat t.astat (setBank { activeBank s with
      mr2 := BitVec.ofNat 8 (n / 2 ^ 32), mr1 := BitVec.ofNat 16 (n / 2 ^ 16), mr0 := BitVec.ofNat 16 n } s)
  | .feedback => t = setAstat t.astat (setBank { activeBank s with mf := BitVec.ofNat 16 (n / 2 ^ 16) } s)

/-! The shifter (42_shifter.md R260 to R272). -/

/-- Bit `k` of the output field: the input displaced by `c`, `e` on its left, zeros on its right (R260). -/
def fieldBit (x : Word) (c : Int) (ref : HiLo) (e : Bool) (k : Nat) : Bool :=
  let j : Int := (k : Int) - ((if ref = .hi then 16 else 0) + c)
  if j < 0 then false else if j ≤ 15 then x.getLsbD j.toNat else e

/-- SR holds the output field, ORed with its old contents where asked, and nothing else changes (R264). -/
def ShiftEffect (x : Word) (c : Int) (ref : HiLo) (e withOr : Bool) (s t : State) : Prop :=
  ∃ v : BitVec 32,
    (∀ k < 32, v.getLsbD k = (fieldBit x c ref e k || (withOr && (srOf (activeBank s)).getLsbD k))) ∧
    t = setBank { activeBank s with sr1 := v.extractLsb' 16 16, sr0 := v.extractLsb' 0 16 } s

/-- `x`, a signed number, needs no more than `16 - r` bits. -/
def fitsBits (x : Word) (r : Nat) : Prop := -(2 ^ (15 - r)) ≤ x.toInt ∧ x.toInt < 2 ^ (15 - r)

/-- `e` is minus the number of redundant sign bits of `x`, 0 to 15 (R272). -/
def IsExponent (x : Word) (e : Int) : Prop :=
  ∃ r : Nat, r ≤ 15 ∧ e = -(r : Int) ∧ fitsBits x r ∧ (r < 15 → ¬ fitsBits x (r + 1))

/-- `n` is the number of the most significant bits of `x` in a row that equal `b` (R268). -/
def IsLeadingRun (b : Bool) (x : Word) (n : Nat) : Prop :=
  n ≤ 16 ∧ (∀ k < n, x.getLsbD (15 - k) = b) ∧ (n < 16 → x.getLsbD (15 - n) ≠ b)

/-- SE and SS are written, and nothing else (R268). -/
def ExpEffect (se : BitVec 8) (sign : Bool) (s t : State) : Prop :=
  flagSs t = sign ∧ (∀ k < 7, t.astat.getLsbD k = s.astat.getLsbD k) ∧
  t = setAstat t.astat (setBank { activeBank s with se := se } s)

/-! Memory (20_memory.md R85 to R88). -/

/-- A data memory word that can be read: stored in RAM or ROM, or a device location. -/
def dmReadable (s : State) (a : Addr) : Prop :=
  ((regionKind s.cfg.dmMap a.toNat = some .ram ∨ regionKind s.cfg.dmMap a.toNat = some .rom) ∧
    (s.mem.dm.read a.toNat).isSome = true) ∨ regionKind s.cfg.dmMap a.toNat = some .device

/-- Reading `v` at `a` leaves the state `u`: the stored word and no change, or any word and an event of a device. -/
def DmReads (s : State) (a : Addr) (v : Word) (u : State) : Prop :=
  ((regionKind s.cfg.dmMap a.toNat = some .ram ∨ regionKind s.cfg.dmMap a.toNat = some .rom) ∧
    s.mem.dm.read a.toNat = some v ∧ u = s) ∨
  (regionKind s.cfg.dmMap a.toNat = some .device ∧ u = emit (.dmRead a v) (countDraw s))

/-- A program memory word that can be read. -/
def pmReadable (s : State) (a : Addr) : Prop :=
  ((regionKind s.cfg.pmMap a.toNat = some .ram ∨ regionKind s.cfg.pmMap a.toNat = some .rom) ∧
    (s.mem.pm.read a.toNat).isSome = true) ∨ regionKind s.cfg.pmMap a.toNat = some .device

/-- Reading the program memory word `p` at `a` leaves the state `u`. -/
def PmReads (s : State) (a : Addr) (p : PmWord) (u : State) : Prop :=
  ((regionKind s.cfg.pmMap a.toNat = some .ram ∨ regionKind s.cfg.pmMap a.toNat = some .rom) ∧
    s.mem.pm.read a.toNat = some p ∧ u = s) ∨
  (regionKind s.cfg.pmMap a.toNat = some .device ∧ u = emit (.pmRead a p) (countDraw s))

/-- A data memory location that can be written: RAM or a device. -/
def dmWritable (s : State) (a : Addr) : Prop :=
  regionKind s.cfg.dmMap a.toNat = some .ram ∨ regionKind s.cfg.dmMap a.toNat = some .device

/-- Writing `v` at `a` leaves the state `u`: the word at `a` and no other word is replaced, or a device event. -/
def DmWrites (s : State) (a : Addr) (v : Word) (u : State) : Prop :=
  (regionKind s.cfg.dmMap a.toNat = some .ram ∧ u.mem.dm.read a.toNat = some v ∧
    (∀ b, b ≠ a.toNat → u.mem.dm.read b = s.mem.dm.read b) ∧
    u = { s with mem := { s.mem with dm := u.mem.dm } }) ∨
  (regionKind s.cfg.dmMap a.toNat = some .device ∧ u = emit (.dmWrite a v) s)

/-- A program memory location that can be written. -/
def pmWritable (s : State) (a : Addr) : Prop :=
  regionKind s.cfg.pmMap a.toNat = some .ram ∨ regionKind s.cfg.pmMap a.toNat = some .device

/-- Writing the program memory word `p` at `a` leaves the state `u`. -/
def PmWrites (s : State) (a : Addr) (p : PmWord) (u : State) : Prop :=
  (regionKind s.cfg.pmMap a.toNat = some .ram ∧ u.mem.pm.read a.toNat = some p ∧
    (∀ b, b ≠ a.toNat → u.mem.pm.read b = s.mem.pm.read b) ∧
    u = { s with mem := { s.mem with pm := u.mem.pm, pmWritten := some a } }) ∨
  (regionKind s.cfg.pmMap a.toNat = some .device ∧
    u = emit (.pmWrite a p) { s with mem := { s.mem with pmWritten := some a } })

/-! Address generation (20_memory.md R91). -/

/-- `B` is the base of the circular buffer of length `len` that holds `i`: `i` with its `n` low bits cleared, `n` the
least number with `2^n` at least the length. -/
def IsBase (i len : Addr) (B : Nat) : Prop :=
  ∃ n : Nat, len.toNat ≤ 2 ^ n ∧ (∀ k < n, 2 ^ k < len.toNat) ∧ B = i.toNat - i.toNat % 2 ^ n

/-- The precondition of the modulus logic: a linear access, or `i` in the buffer and `|m|` at most the length. -/
def ModifyPre (i m len : Addr) : Prop :=
  len = 0 ∨ ∀ B, IsBase i len B → i.toNat < B + len.toNat ∧ m.toInt.natAbs ≤ len.toNat

/-- What the modified index is inside the precondition: `i + m` modulo 2^14, or wrapped into the buffer. -/
def IsModified (i m len v : Addr) : Prop :=
  if len = 0 then (v.toNat : Int) = ((i.toNat : Int) + m.toInt) % 2 ^ 14
  else ∀ B, IsBase i len B →
    B ≤ v.toNat ∧ v.toNat < B + len.toNat ∧ ((v.toNat : Int) - (i.toNat + m.toInt)) % (len.toNat : Int) = 0

/-- The post-modify of I register `a` by M register `b`: only that I register changes, and a free value is drawn only
outside the precondition. -/
def PostModified (a b : DagIdx) (u t : State) : Prop :=
  ∃ v, (ModifyPre u.dag.i[a] u.dag.m[b] u.dag.l[a] → IsModified u.dag.i[a] u.dag.m[b] u.dag.l[a] v ∧ t = setI a v u) ∧
    (¬ ModifyPre u.dag.i[a] u.dag.m[b] u.dag.l[a] → t = setI a v (countDraw u))

/-! Registers (10_state.md R30, R31, 43_move.md R303). -/

/-- The contents of a register that a move can read, as an unsigned number of its own width; RX0 and RX1 are device
registers whose reads are not their contents. -/
def regBits (r : Reg) (s : State) : Nat :=
  match r with
  | .dreg .se => (activeBank s).se.toNat
  | .dreg .mr2 => (activeBank s).mr2.toNat
  | .dreg d => (dregVal d (activeBank s)).toNat
  | .i n => s.dag.i[n].toNat
  | .m n => s.dag.m[n].toNat
  | .l n => s.dag.l[n].toNat
  | .astat => s.astat.toNat
  | .mstat => s.mstat.toNat
  | .sstat => (sstat s).toNat
  | .imask => s.int.imask.toNat
  | .icntl => s.int.icntl.toNat
  | .cntr | .owrcntr => s.seq.cntr.toNat
  | .sb => (activeBank s).sb.toNat
  | .px => s.px.toNat
  | .rx0 => s.ports.rx0.toNat
  | .rx1 => s.ports.rx1.toNat
  | .tx0 => s.ports.tx0.toNat
  | .tx1 => s.ports.tx1.toNat
  | .ifc => 0

/-- The width of a signed register narrower than 16 bits; none for the registers that are zero-filled or full (R30). -/
def signedWidth (r : Reg) : Option Nat :=
  match r with
  | .dreg .se | .dreg .mr2 => some 8
  | .m _ => some 14
  | .sb => some 5
  | .dreg _ | .i _ | .l _ | .astat | .mstat | .sstat | .imask | .icntl | .cntr | .owrcntr | .px | .rx0 | .rx1 | .tx0
  | .tx1 | .ifc => none

/-- `v` is the bus value of `r`: its contents zero-filled, or sign-extended for the signed registers (R30). -/
def IsBusValue (r : Reg) (s : State) (v : Word) : Prop :=
  match signedWidth r with
  | none => v.toNat = regBits r s
  | some n => v.toInt = if regBits r s < 2 ^ (n - 1) then (regBits r s : Int) else (regBits r s : Int) - 2 ^ n

/-- A data register of the active bank is written: it keeps the low bits of `v`, MR1 extends into MR2, and no other
register of the bank changes (R23, R31). -/
def DregWritten (d : DReg) (v : Word) (s t : State) : Prop :=
  ∃ b : Bank, t = setBank b s ∧
    (match d with
      | .se => b.se.toNat = v.toNat % 2 ^ 8
      | .mr2 => b.mr2.toNat = v.toNat % 2 ^ 8
      | .mr1 => b.mr1 = v ∧ b.mr2 = (if v.toInt < 0 then 0xFF#8 else 0#8)
      | d => dregVal d b = v) ∧
    (∀ r, r ≠ d → ¬ (d = .mr1 ∧ r = .mr2) → dregVal r b = dregVal r (activeBank s)) ∧
    b.af = (activeBank s).af ∧ b.mf = (activeBank s).mf ∧ b.sb = (activeBank s).sb

/-- What a write of `v` to IFC makes of the latch of one source: cleared by its clear bit, then set by its force bit
(60_exceptions.md R442). -/
def latchAfterIfc (v : Word) (src : IntSource) (old : Bool) : Bool :=
  (old && !(src.clearBit.any fun k => v.getLsbD k)) || src.forceBit.any fun k => v.getLsbD k

/-- `regwrite(d, v)` (R303): what a move to `d` makes of the state. A load of CNTR is a push and a write. -/
def RegWritten (d : Reg) (v : Word) (s t : State) : Prop :=
  match d with
  | .dreg d => DregWritten d v s t
  | .i n => t = { s with dag := { s.dag with i := s.dag.i.set n (BitVec.ofNat 14 v.toNat) } }
  | .m n => t = { s with dag := { s.dag with m := s.dag.m.set n (BitVec.ofNat 14 v.toNat) } }
  | .l n => t = { s with dag := { s.dag with l := s.dag.l.set n (BitVec.ofNat 14 v.toNat) } }
  | .astat => t = { s with astat := BitVec.ofNat 8 v.toNat }
  | .mstat => t = { s with mstat := BitVec.ofNat 7 v.toNat }
  | .sstat => False
  | .imask =>
    t = { s with int := { s.int with imask := t.int.imask } } ∧
      ∀ k < 16, t.int.imask.getLsbD k = (decide (k < s.cfg.imaskBits) && v.getLsbD k)
  | .icntl =>
    t = { s with int := { s.int with icntl := t.int.icntl } } ∧
      ∀ k < 16, t.int.icntl.getLsbD k = (decide (k < s.cfg.icntlBits) && (k != 3) && v.getLsbD k)
  | .cntr =>
    t = { s with seq := { s.seq with
            cntr := BitVec.ofNat 14 v.toNat, cntrLoaded := true
            cntrStack :=
              if s.cfg.cntrFirstLoadPushes || s.seq.cntrLoaded then s.seq.cntr :: s.seq.cntrStack
              else s.seq.cntrStack } }
  | .owrcntr => t = { s with seq := { s.seq with cntr := BitVec.ofNat 14 v.toNat, cntrLoaded := true } }
  | .sb => t = setBank { activeBank s with sb := BitVec.ofNat 5 v.toNat } s
  | .px => t = { s with px := BitVec.ofNat 8 v.toNat }
  | .rx0 => t = { s with ports := { s.ports with rx0 := v } }
  | .rx1 => t = { s with ports := { s.ports with rx1 := v } }
  | .tx0 => t = { s with ports := { s.ports with tx0 := v }, events := s.events ++ [.txWrite 0 v] }
  | .tx1 => t = { s with ports := { s.ports with tx1 := v }, events := s.events ++ [.txWrite 1 v] }
  | .ifc =>
    t = { s with int := { s.int with irqPending := t.int.irqPending } } ∧
      t.int.irqPending.length = s.cfg.intTable.length ∧
      ∀ (k : Nat) (src : IntSource), s.cfg.intTable[k]? = some src →
        t.int.irqPending[k]? = some (latchAfterIfc (BitVec.ofNat 16 (v.toNat % 2 ^ s.cfg.ifcBits)) src
          (s.int.irqPending[k]?.getD false))

/-- A write to `d` is not stopped: only SSTAT is no destination, and a load of CNTR that pushes needs room on the
counter stack (R303, R59). -/
def regWritable (d : Reg) (s : State) : Prop :=
  d ≠ .sstat ∧
  (d = .cntr → (s.cfg.cntrFirstLoadPushes || s.seq.cntrLoaded) = true →
    s.seq.cntrStack.length < s.cfg.cntrStackDepth)

/-- Reading `v` from register `r` leaves the state `u`: its bus value and no change, or, for RX0 and RX1, any word and
an event (R30, R40). -/
def RegReads (r : Reg) (s : State) (v : Word) (u : State) : Prop :=
  match r with
  | .rx0 => u = emit (.rxRead 0 v) (countDraw s)
  | .rx1 => u = emit (.rxRead 1 v) (countDraw s)
  | .ifc | .owrcntr => False
  | r => IsBusValue r s v ∧ u = s

/-! Instructions. -/

/-- The condition of a conditional instruction; none for the instructions without a COND field (R336, R174). -/
def conditionOf (i : Instr) : Option Cond :=
  match i with
  | .aluPassY _ _ _ c | .aluIncY _ _ _ c | .aluAddC _ _ _ c | .aluAdd _ _ _ c | .aluNotY _ _ _ c
  | .aluNegY _ _ _ c | .aluSubXYBorrow _ _ _ c | .aluSubXY _ _ _ c | .aluDecY _ _ _ c | .aluSubYX _ _ _ c
  | .aluSubYXBorrow _ _ _ c | .aluNotX _ _ _ c | .aluAnd _ _ _ c | .aluOr _ _ _ c | .aluXor _ _ _ c
  | .aluAbs _ _ _ c | .aluAddK _ _ _ _ c | .aluAddKC _ _ _ _ c | .aluSubXK _ _ _ _ c
  | .aluSubXKBorrow _ _ _ _ c | .aluSubKX _ _ _ _ c | .aluSubKXBorrow _ _ _ _ c | .aluPassK _ _ _ _ c
  | .aluPassKInc _ _ _ _ c | .aluPassKDec _ _ _ _ c | .aluTstbit _ _ _ c | .aluClrbit _ _ _ c
  | .aluSetbit _ _ _ c | .aluOrNotBit _ _ _ c | .aluTglbit _ _ _ c | .aluXorNotBit _ _ _ c | .aluNotK _ _ _ _ c
  | .aluNegK _ _ _ _ c | .aluNotXK _ _ _ _ c | .aluAbsK _ _ _ _ c | .macMulRnd _ _ _ c | .macMulSs _ _ _ c
  | .macMulSu _ _ _ c | .macMulUs _ _ _ c | .macMulUu _ _ _ c | .macAddRnd _ _ _ c | .macAddSs _ _ _ c
  | .macAddSu _ _ _ c | .macAddUs _ _ _ c | .macAddUu _ _ _ c | .macSubRnd _ _ _ c | .macSubSs _ _ _ c
  | .macSubSu _ _ _ c | .macSubUs _ _ _ c | .macSubUu _ _ _ c | .macSqrMulRnd _ _ c | .macSqrMulSs _ _ c
  | .macSqrMulUu _ _ c | .macSqrAddRnd _ _ c | .macSqrAddSs _ _ c | .macSqrAddUu _ _ c | .macSqrSubRnd _ _ c
  | .macSqrSubSs _ _ c | .macSqrSubUu _ _ c | .lshiftHi _ c | .lshiftHiOr _ c | .lshiftLo _ c | .lshiftLoOr _ c
  | .ashiftHi _ c | .ashiftHiOr _ c | .ashiftLo _ c | .ashiftLoOr _ c | .normHi _ c | .normHiOr _ c
  | .normLo _ c | .normLoOr _ c | .expHi _ c | .expHix _ c | .expLo _ c | .expadj _ c | .jump _ c | .call _ c
  | .jumpInd _ c | .callInd _ c | .flagOut _ _ _ _ c | .rts c | .rti c => some c
  | .divs _ _ | .divq _ | .noneAlu _ _ _ | .satMr | .lshiftImmHi _ _ | .lshiftImmHiOr _ _ | .lshiftImmLo _ _
  | .lshiftImmLoOr _ _ | .ashiftImmHi _ _ | .ashiftImmHiOr _ _ | .ashiftImmLo _ _ | .ashiftImmLoOr _ _
  | .moveFromTop _ | .moveToTop _ | .moveReg _ _ | .loadDreg _ _ | .loadReg _ _ | .readDm _ _ | .writeDm _ _
  | .readDmInd _ _ _ _ | .writeDmInd _ _ _ _ | .writeDmImm _ _ _ _ | .readPmInd _ _ _ | .writePmInd _ _ _
  | .readIo _ _ | .writeIo _ _ | .jumpFlag _ _ | .callFlag _ _ | .doUntil _ _ | .idle | .idleN _
  | .stackControl _ _ _ _ | .enaInts | .disInts | .modeControl _ _ _ _ _ _ _ | .modify _ _ _ | .nop
  | .compReadDm _ _ _ _ _ _ | .compReadPm _ _ _ _ _ | .shiftReadDm _ _ _ _ _ _ | .shiftReadPm _ _ _ _ _
  | .compMove _ _ _ _ | .shiftMove _ _ _ _ | .compWriteDm _ _ _ _ _ _ | .compWritePm _ _ _ _ _
  | .shiftWriteDm _ _ _ _ _ _ | .shiftWritePm _ _ _ _ _ | .dualRead _ _ _ _ _ _ | .compDualRead _ _ _ _ _ _ _
  | .unused _ => none

/-- The option predicates an instruction needs (R4, R160 item 5): `hasExt`, `hasIO` or `hasFL`. NONE needs `hasExt` as
well, but without it its word is another one (R198). -/
def memberHas (m : Member) (i : Instr) : Bool :=
  match i with
  | .aluAddK _ _ _ _ _ | .aluAddKC _ _ _ _ _ | .aluSubXK _ _ _ _ _ | .aluSubXKBorrow _ _ _ _ _
  | .aluSubKX _ _ _ _ _ | .aluSubKXBorrow _ _ _ _ _ | .aluPassK _ _ _ _ _ | .aluPassKInc _ _ _ _ _
  | .aluPassKDec _ _ _ _ _ | .aluTstbit _ _ _ _ | .aluClrbit _ _ _ _ | .aluSetbit _ _ _ _
  | .aluOrNotBit _ _ _ _ | .aluTglbit _ _ _ _ | .aluXorNotBit _ _ _ _ | .aluNotK _ _ _ _ _ | .aluNegK _ _ _ _ _
  | .aluNotXK _ _ _ _ _ | .aluAbsK _ _ _ _ _ | .macSqrMulRnd _ _ _ | .macSqrMulSs _ _ _ | .macSqrMulUu _ _ _
  | .macSqrAddRnd _ _ _ | .macSqrAddSs _ _ _ | .macSqrAddUu _ _ _ | .macSqrSubRnd _ _ _ | .macSqrSubSs _ _ _
  | .macSqrSubUu _ _ _ | .enaInts | .disInts => m.hasExt
  | .readIo _ _ | .writeIo _ _ => m.hasIO
  | .flagOut fl2 fl1 fl0 _ _ => m.hasFL || !usesFl fl2 fl1 fl0
  | .aluPassY _ _ _ _ | .aluIncY _ _ _ _ | .aluAddC _ _ _ _ | .aluAdd _ _ _ _ | .aluNotY _ _ _ _
  | .aluNegY _ _ _ _ | .aluSubXYBorrow _ _ _ _ | .aluSubXY _ _ _ _ | .aluDecY _ _ _ _ | .aluSubYX _ _ _ _
  | .aluSubYXBorrow _ _ _ _ | .aluNotX _ _ _ _ | .aluAnd _ _ _ _ | .aluOr _ _ _ _ | .aluXor _ _ _ _
  | .aluAbs _ _ _ _ | .divs _ _ | .divq _ | .noneAlu _ _ _ | .macMulRnd _ _ _ _ | .macMulSs _ _ _ _
  | .macMulSu _ _ _ _ | .macMulUs _ _ _ _ | .macMulUu _ _ _ _ | .macAddRnd _ _ _ _ | .macAddSs _ _ _ _
  | .macAddSu _ _ _ _ | .macAddUs _ _ _ _ | .macAddUu _ _ _ _ | .macSubRnd _ _ _ _ | .macSubSs _ _ _ _
  | .macSubSu _ _ _ _ | .macSubUs _ _ _ _ | .macSubUu _ _ _ _ | .satMr | .lshiftHi _ _ | .lshiftHiOr _ _
  | .lshiftLo _ _ | .lshiftLoOr _ _ | .ashiftHi _ _ | .ashiftHiOr _ _ | .ashiftLo _ _ | .ashiftLoOr _ _
  | .normHi _ _ | .normHiOr _ _ | .normLo _ _ | .normLoOr _ _ | .expHi _ _ | .expHix _ _ | .expLo _ _
  | .expadj _ _ | .lshiftImmHi _ _ | .lshiftImmHiOr _ _ | .lshiftImmLo _ _ | .lshiftImmLoOr _ _
  | .ashiftImmHi _ _ | .ashiftImmHiOr _ _ | .ashiftImmLo _ _ | .ashiftImmLoOr _ _ | .moveFromTop _
  | .moveToTop _ | .moveReg _ _ | .loadDreg _ _ | .loadReg _ _ | .readDm _ _ | .writeDm _ _
  | .readDmInd _ _ _ _ | .writeDmInd _ _ _ _ | .writeDmImm _ _ _ _ | .readPmInd _ _ _ | .writePmInd _ _ _
  | .jump _ _ | .call _ _ | .jumpInd _ _ | .callInd _ _ | .jumpFlag _ _ | .callFlag _ _ | .rts _ | .rti _
  | .doUntil _ _ | .idle | .idleN _ | .stackControl _ _ _ _ | .modeControl _ _ _ _ _ _ _ | .modify _ _ _ | .nop
  | .compReadDm _ _ _ _ _ _ | .compReadPm _ _ _ _ _ | .shiftReadDm _ _ _ _ _ _ | .shiftReadPm _ _ _ _ _
  | .compMove _ _ _ _ | .shiftMove _ _ _ _ | .compWriteDm _ _ _ _ _ _ | .compWritePm _ _ _ _ _
  | .shiftWriteDm _ _ _ _ _ _ | .shiftWritePm _ _ _ _ _ | .dualRead _ _ _ _ _ _ | .compDualRead _ _ _ _ _ _ _
  | .unused _ => true

/-! The forms of one shape. -/

/-- The register form of an ALU function (type 9). -/
def aluForm (f : AluFn) (z : Dest) (y : AluYop) (x : AluXop) (c : Cond) : Instr :=
  match f with
  | .passY => .aluPassY z y x c
  | .incY => .aluIncY z y x c
  | .addC => .aluAddC z y x c
  | .add => .aluAdd z y x c
  | .notY => .aluNotY z y x c
  | .negY => .aluNegY z y x c
  | .subXYBorrow => .aluSubXYBorrow z y x c
  | .subXY => .aluSubXY z y x c
  | .decY => .aluDecY z y x c
  | .subYX => .aluSubYX z y x c
  | .subYXBorrow => .aluSubYXBorrow z y x c
  | .notX => .aluNotX z y x c
  | .andXY => .aluAnd z y x c
  | .orXY => .aluOr z y x c
  | .xorXY => .aluXor z y x c
  | .absX => .aluAbs z y x c

/-- The constant of a constant form: 2^n, or its complement (R152). -/
def constWord (n : BitVec 4) (inv : Bool) : Word :=
  BitVec.ofNat 16 (if inv then 65535 - 2 ^ n.toNat else 2 ^ n.toNat)

/-- The constant form of an ALU function (type 9); none for the three PASS constant forms. -/
def aluConstForm (f : AluFn) (z : Dest) (n : BitVec 4) (inv : Bool) (x : AluXop) (c : Cond) : Option Instr :=
  match f with
  | .passY => none
  | .incY => none
  | .addC => some (.aluAddKC z n inv x c)
  | .add => some (.aluAddK z n inv x c)
  | .notY => some (.aluNotK z n inv x c)
  | .negY => some (.aluNegK z n inv x c)
  | .subXYBorrow => some (.aluSubXKBorrow z n inv x c)
  | .subXY => some (.aluSubXK z n inv x c)
  | .decY => none
  | .subYX => some (.aluSubKX z n inv x c)
  | .subYXBorrow => some (.aluSubKXBorrow z n inv x c)
  | .notX => some (.aluNotXK z n inv x c)
  | .andXY => some (if inv then .aluClrbit z n x c else .aluTstbit z n x c)
  | .orXY => some (if inv then .aluOrNotBit z n x c else .aluSetbit z n x c)
  | .xorXY => some (if inv then .aluXorNotBit z n x c else .aluTglbit z n x c)
  | .absX => some (.aluAbsK z n inv x c)

/-- A PASS constant form: the constant, one more or one less (R190). -/
inductive PassKind where
  | plain | plusOne | minusOne
  deriving DecidableEq, Repr

/-- The instruction of a PASS constant form. -/
def passForm (k : PassKind) (z : Dest) (n : BitVec 4) (inv : Bool) (x : AluXop) (c : Cond) : Instr :=
  match k with
  | .plain => .aluPassK z n inv x c
  | .plusOne => .aluPassKInc z n inv x c
  | .minusOne => .aluPassKDec z n inv x c

/-- The value a PASS constant form passes. -/
def passValue (k : PassKind) (n : BitVec 4) (inv : Bool) : Word :=
  match k with
  | .plain => constWord n inv
  | .plusOne => BitVec.ofNat 16 ((constWord n inv).toNat + 1)
  | .minusOne => BitVec.ofNat 16 ((constWord n inv).toNat + 65535)

/-- The bank with the result or the feedback register of the ALU replaced. -/
def withAluDest (z : Dest) (v : Word) (b : Bank) : Bank :=
  match z with
  | .result => { b with ar := v }
  | .feedback => { b with af := v }

/-- The register form of a MAC function (type 9). -/
def macForm (f : MacFn) (z : Dest) (y : MacYop) (x : MacXop) (c : Cond) : Instr :=
  match f.op, f.fmt with
  | .mul, .rnd => .macMulRnd z y x c
  | .mul, .ss => .macMulSs z y x c
  | .mul, .su => .macMulSu z y x c
  | .mul, .us => .macMulUs z y x c
  | .mul, .uu => .macMulUu z y x c
  | .add, .rnd => .macAddRnd z y x c
  | .add, .ss => .macAddSs z y x c
  | .add, .su => .macAddSu z y x c
  | .add, .us => .macAddUs z y x c
  | .add, .uu => .macAddUu z y x c
  | .sub, .rnd => .macSubRnd z y x c
  | .sub, .ss => .macSubSs z y x c
  | .sub, .su => .macSubSu z y x c
  | .sub, .us => .macSubUs z y x c
  | .sub, .uu => .macSubUu z y x c

/-- The squaring form of a MAC function (type 9); none for the SU and US formats (R242). -/
def squareForm (f : MacFn) (z : Dest) (x : MacXop) (c : Cond) : Option Instr :=
  match f.op, f.fmt with
  | .mul, .rnd => some (.macSqrMulRnd z x c)
  | .mul, .ss => some (.macSqrMulSs z x c)
  | .mul, .uu => some (.macSqrMulUu z x c)
  | .add, .rnd => some (.macSqrAddRnd z x c)
  | .add, .ss => some (.macSqrAddSs z x c)
  | .add, .uu => some (.macSqrAddUu z x c)
  | .sub, .rnd => some (.macSqrSubRnd z x c)
  | .sub, .ss => some (.macSqrSubSs z x c)
  | .sub, .uu => some (.macSqrSubUu z x c)
  | _, .su => none
  | _, .us => none

/-- The conditional form of a shifter function (type 16). -/
def shiftForm (f : ShiftFn) (x : ShiftXop) (c : Cond) : Instr :=
  match f with
  | .lshift .hi false => .lshiftHi x c
  | .lshift .hi true => .lshiftHiOr x c
  | .lshift .lo false => .lshiftLo x c
  | .lshift .lo true => .lshiftLoOr x c
  | .ashift .hi false => .ashiftHi x c
  | .ashift .hi true => .ashiftHiOr x c
  | .ashift .lo false => .ashiftLo x c
  | .ashift .lo true => .ashiftLoOr x c
  | .norm .hi false => .normHi x c
  | .norm .hi true => .normHiOr x c
  | .norm .lo false => .normLo x c
  | .norm .lo true => .normLoOr x c
  | .expHi => .expHi x c
  | .expHix => .expHix x c
  | .expLo => .expLo x c
  | .expadj => .expadj x c

/-- The immediate form of a shift (type 15): arithmetic or logical. -/
def shiftImmForm (arith : Bool) (ref : HiLo) (withOr : Bool) (x : ShiftXop) (e : BitVec 8) : Instr :=
  match arith, ref, withOr with
  | false, .hi, false => .lshiftImmHi x e
  | false, .hi, true => .lshiftImmHiOr x e
  | false, .lo, false => .lshiftImmLo x e
  | false, .lo, true => .lshiftImmLoOr x e
  | true, .hi, false => .ashiftImmHi x e
  | true, .hi, true => .ashiftImmHiOr x e
  | true, .lo, false => .ashiftImmLo x e
  | true, .lo, true => .ashiftImmLoOr x e

/-- The single-function form of a computation clause, unconditional (46_multifunction.md R403). -/
def clauseForm (z : Dest) (op : AluMac) : Instr :=
  match op with
  | .alu f y x => aluForm f z y x .always
  | .mac f y x => macForm f z y x .always

/-- Whether a computation clause writes the data register `d` (R402). -/
def clauseWrites (z : Dest) (op : AluMac) (d : DReg) : Bool :=
  match z, op with
  | .feedback, _ => false
  | .result, .alu _ _ _ => d == .ar
  | .result, .mac _ _ _ => d == .mr0 || d == .mr1 || d == .mr2

/-- Whether a shifter clause writes the data register `d` (R402). -/
def shiftWrites (f : ShiftFn) (d : DReg) : Bool :=
  match f with
  | .lshift _ _ | .ashift _ _ | .norm _ _ => d == .sr0 || d == .sr1
  | .expHi | .expHix | .expLo => d == .se
  | .expadj => false

/-- What the two loads of a dual read make of the state `u` that the computation left (R415). -/
def DualLoaded (pd : PmDest) (dd : DmDest) (ap bp ad bd : DagIdx) (p : PmWord) (v : Word) (u t : State) : Prop :=
  ∃ u1 u2 u3,
    DregWritten (dmDestReg dd) v u u1 ∧
    DregWritten (pmDestReg pd) (BitVec.ofNat 16 (p.toNat / 2 ^ 8)) u1 u2 ∧
    PostModified ad bd { u2 with px := BitVec.ofNat 8 p.toNat } u3 ∧ PostModified ap bp u3 t

/-- What the load of a word from program memory makes of the state `u` that the computation left (R295). -/
def PmLoaded (d : DReg) (a b : DagIdx) (p : PmWord) (u t : State) : Prop :=
  ∃ u1, DregWritten d (BitVec.ofNat 16 (p.toNat / 2 ^ 8)) u u1 ∧
    PostModified a b { u1 with px := BitVec.ofNat 8 p.toNat } t

/-- The 24-bit word a program memory write stores: the 16-bit value over PX (R96). -/
def pmWordOf (v : Word) (px : BitVec 8) : PmWord := BitVec.ofNat 24 (v.toNat * 2 ^ 8 + px.toNat)

/-- The I field of an instruction that writes program memory, alone or beside a computation (R299, R412, R414). -/
def pmWriteIndex (i : Instr) : Option (BitVec 2) :=
  match i with
  | .writePmInd _ j _ | .compWritePm _ _ _ j _ | .shiftWritePm _ _ _ j _ => some j
  | _ => none

/-! The sequencer. -/

/-- Whether interrupt source `k` requests service in this step; the timer's only while MSTAT.TIMER is 1 (R445, R452). -/
def asksNow (s : State) (k : Nat) (src : IntSource) : Bool :=
  (!src.timer || s.mstat.getLsbD 5) && Config.irqRequest s.steps k

/-- The latch of interrupt source `k` after the requests of the step are sampled: only an edge-sensitive request is
latched (R442, R443, R445, log 7). -/
def latchNow (s : State) (k : Nat) (src : IntSource) : Bool :=
  s.int.irqPending[k]?.getD false || (sourceIsEdge s.int.icntl src && asksNow s k src)

/-- The interrupt sources that could be taken in this step: enabled, unmasked, and pending by their latch or their
request (R443, R61). -/
def Candidate (s : State) (k : Nat) (src : IntSource) : Prop :=
  s.cfg.intTable[k]? = some src ∧ (s.int.ints = true ∨ s.cfg.member.hasExt = false) ∧
  s.int.imask.getLsbD src.maskBit = true ∧ (s.int.irqPending[k]?.getD false || asksNow s k src) = true

/-- No interrupt is taken in this step. -/
def NoInterrupt (s : State) : Prop := ∀ k src, ¬ Candidate s k src

/-- The latches after the requests are sampled, one a source. -/
def LatchesNow (s : State) (pend : List Bool) : Prop :=
  pend.length = s.cfg.intTable.length ∧
  ∀ (k : Nat) (src : IntSource), s.cfg.intTable[k]? = some src → pend[k]? = some (latchNow s k src)

/-- A processor that is not idle is about to fetch the word `w`: it is stored where PC points, and the instruction
before did not write it (R94, R100). -/
def Fetches (s : State) (w : PmWord) : Prop :=
  s.int.idle = false ∧ s.mem.pmWritten ≠ some s.seq.pc ∧
  (regionKind s.cfg.pmMap s.seq.pc.toNat = some .ram ∨ regionKind s.cfg.pmMap s.seq.pc.toNat = some .rom) ∧
  s.mem.pm.read s.seq.pc.toNat = some w

/-- PC is not the end address of the current loop (R351). -/
def OutsideLoopEnd (s : State) : Prop := ∀ e rest, s.seq.loopStack = e :: rest → e.last ≠ s.seq.pc

/-- The state an instruction executes on, away from a loop end: the interrupt requests and the FI pin are sampled, and
no transfer or program memory write is noted yet. -/
def entered (pend : List Bool) (s : State) : State :=
  { s with
    int := { s.int with irqPending := pend }
    seq := { s.seq with transfer := none }
    ports := { s.ports with fi := Config.fiInput s.steps }
    mem := { s.mem with pmWritten := none } }

/-- The same at the end of a loop: for CE the counter is decremented (R351). -/
def enteredAtEnd (e : LoopEntry) (pend : List Bool) (s : State) : State :=
  let t := entered pend s
  { t with seq := { t.seq with cntr := if e.term = .ce then BitVec.ofNat 14 (s.seq.cntr.toNat + 16383) else s.seq.cntr } }

/-- The state with PC at `a`, at the end of a step. -/
def stepTo (a : Addr) (t : State) : State :=
  { t with seq := { t.seq with pc := a, transfer := none }, steps := t.steps + 1 }

/-- A step that ends in the answer of an instruction: the next state goes on by `f`. -/
def onNext (f : State → State) (r : Answer) : Answer :=
  match r with
  | .next t => .next (f t)
  | .fault e => .fault e
  | .refused e => .refused e

/-- The termination condition of a loop, on the flags and the counter before the last instruction (R47, R48, R351). -/
def TermMet (t : Term) (s : State) : Prop :=
  match t with
  | .eq => flagAz s = true
  | .ne => flagAz s = false
  | .gt => ¬ (flagAn s ≠ flagAv s ∨ flagAz s = true)
  | .le => flagAn s ≠ flagAv s ∨ flagAz s = true
  | .lt => flagAn s ≠ flagAv s
  | .ge => flagAn s = flagAv s
  | .av => flagAv s = true
  | .notAv => flagAv s = false
  | .ac => flagAc s = true
  | .notAc => flagAc s = false
  | .neg => flagAs s = true
  | .pos => flagAs s = false
  | .mv => flagMv s = true
  | .notMv => flagMv s = false
  | .ce => s.seq.cntr.toNat = 1
  | .forever => False

/-- What a mode-control field makes of its bit (R380). -/
def modeBit (op : ModeOp) (old : Bool) : Bool :=
  match op with
  | .keep | .keepAlt => old
  | .dis => false
  | .ena => true

/-- What a flag-out field makes of its pin (R345). -/
def pinTo (op : PinOp) (old : Bool) : Bool :=
  match op with
  | .keep => old
  | .toggle => !old
  | .reset => false
  | .set => true

/-- The event of a pin, if the instruction changes it. -/
def pinEvent (p : Pin) (op : PinOp) (old : Bool) : List Event :=
  if pinTo op old = old then [] else [.pin p (pinTo op old)]

/-- The inactive register bank (R25). -/
def inactiveBank (s : State) : Bank := if secReg s then s.primary else s.secondary

/-- An instruction that is never allowed at the end of a loop (R337). -/
def neverLast (i : Instr) : Bool :=
  match i with
  | .idle | .idleN _ | .doUntil _ _ | .moveFromTop _ | .moveToTop _ => true
  | .stackControl pp lp _ _ => pp || lp
  | _ => false

/-- A register name that stands for CNTR. -/
def isCntr (r : Reg) : Bool := r == .cntr || r == .owrcntr

/-- An instruction that reads or writes CNTR itself (R337). -/
def touchesCntr (i : Instr) : Bool :=
  match i with
  | .moveReg d r => isCntr d || isCntr r
  | .loadReg _ d => isCntr d
  | .readDm _ d => isCntr d
  | .writeDm _ r => isCntr r
  | .stackControl _ _ cp _ => cp
  | i => conditionOf i == some .notCe

/-- The instruction may stand at PC (R337): PC is no loop end, or the instruction is allowed there. -/
def AllowedHere (i : Instr) (s : State) : Prop :=
  ∀ e rest, s.seq.loopStack = e :: rest → e.last = s.seq.pc →
    neverLast i = false ∧ (e.term = .ce → touchesCntr i = false)

/-! Words that are no instruction (30_encoding.md R160, R161). -/

/-- The `n` bits of a word from bit `lo` up, as a number. -/
def field (w : PmWord) (lo n : Nat) : Nat := w.toNat / 2 ^ lo % 2 ^ n

/-- An RGP and REG pair the Register Selection Table marks unused, TOPPCSTACK among them (R150). -/
def noReg (rgp reg : Nat) : Bool :=
  ((rgp == 1 || rgp == 2) && decide (12 ≤ reg)) || (rgp == 3 && decide (14 ≤ reg))

/-- A pair that may not be a destination: no register, or SSTAT. -/
def noDest (rgp reg : Nat) : Bool := noReg rgp reg || (rgp == 3 && reg == 2)

/-- A pair that may not be a source: no register, or IFC or OWRCNTR. -/
def noSource (rgp reg : Nat) : Bool := noReg rgp reg || (rgp == 3 && (reg == 12 || reg == 13))

/-- No computation, but a Z, Yop or Xop bit set: bits 18 and 12 to 8. -/
def strayOperand (w : PmWord) : Bool := field w 13 5 == 0 && (field w 18 1 != 0 || field w 8 5 != 0)

/-- A type 17 word that is no move: bits 15 to 12 set, or registers that the plain move and the TOPPCSTACK forms do not
name (R128, R376). -/
def strayMove (w : PmWord) : Bool :=
  field w 12 4 != 0 ||
  (if field w 10 2 == 3 && field w 4 4 == 15 then field w 8 2 == 3 || noReg (field w 8 2) (field w 0 4)
   else if field w 8 2 == 3 && field w 0 4 == 15 then field w 10 2 == 3 || noReg (field w 10 2) (field w 4 4)
   else noDest (field w 10 2) (field w 4 4) || noSource (field w 8 2) (field w 0 4))

/-- A type 9 word of none of the three layouts, or with AMF = 00000 (R120, R242). -/
def strayCompute (w : PmWord) : Bool :=
  field w 13 5 == 0 ||
  (field w 4 4 != 0 &&
    (if decide (16 ≤ field w 13 5) then field w 4 1 == 0
     else field w 4 4 != 1 || field w 11 2 != 0 ||
      [5, 6, 9, 10, 13, 14].contains (field w 13 5)))

/-- A word that is no instruction of the family: the list of R160, items 2 to 4, by leading byte (R161). A word whose
leading byte is 0x08 (item 1) is the row '(unused)'. -/
def isNoInstruction (w : PmWord) : Bool :=
  match field w 16 8 with
  | 0x00 => w != 0
  | 0x01 | 0x03 | 0x08 => false
  | 0x02 =>
    if field w 15 1 == 0 then field w 12 3 != 0
    else field w 4 11 != 0 || !([0, 1, 2, 4, 8].contains (field w 0 4))
  | 0x04 =>
    field w 7 9 != 0 || (if field w 6 1 == 1 then w != 0x040040#24 && w != 0x040060#24 else field w 5 1 == 1)
  | 0x05 => field w 0 16 != 0
  | 0x06 => field w 13 3 != 0 || field w 0 8 != 0 || field w 11 2 == 0 || field w 11 2 == 3
  | 0x07 => field w 11 5 != 2 || field w 0 8 != 0
  | 0x09 | 0x0A => field w 5 11 != 0
  | 0x0B => field w 8 8 != 0 || field w 5 1 != 0
  | 0x0C => field w 0 2 != 0
  | 0x0D => strayMove w
  | 0x0E => field w 15 1 != 0 || field w 4 4 != 0 || field w 8 3 == 1
  | 0x0F => field w 15 1 != 0 || field w 14 1 != 0 || field w 8 3 == 1
  | 0x10 => field w 15 1 != 0 || field w 8 3 == 1
  | 0x11 | 0x12 | 0x13 => field w 8 3 == 1
  | b =>
    if b < 0x20 then false
    else if b < 0x28 then strayCompute w
    else if b < 0x30 then strayOperand w
    else if b < 0x40 then field w 18 2 == 0 || noDest (field w 18 2) (field w 0 4)
    else if b < 0x50 then false
    else if b < 0x80 then strayOperand w
    else if b < 0x90 then noDest (field w 18 2) (field w 0 4)
    else if b < 0xA0 then noSource (field w 18 2) (field w 0 4)
    else if b < 0xC0 then false
    else field w 13 5 == 0 && field w 8 5 != 0

end Sys2Proof.Machine.Claims
end

