-- ==== Sys2Proof/Certificates/Slice0/Obligations.lean ====
section
/-! DEFINITION. The statements for the provers. Each docstring names the rules of spec/ the statement formalises; the
words it is written in stand in Vocabulary.lean. -/

open Sys2Proof Sys2Proof.Machine Sys2Proof.Machine.Claims

/-- O1. For every well-formed instruction of all 132 rows, with every operand at every value its encoding admits,
decode of encode is that instruction, by the default code tables and by every other set of tables that gives each
operand a code and leaves the printed patterns free (Codes.Complete). Rests also on the spec's inferences: what it
takes from general knowledge in the code tables R146, R147, R148, R149, R150, R151, R152, R153, R154, R155, R156,
R157, R158 (log 3). The default tables are log 3. (30_encoding.md R111, 30_encoding.md R112 to R142, 30_encoding.md
R143 to R158) -/
def Obligations.DecodeEncode : Prop :=
  (∀ i : Instr, i.wellFormed = true → decode (encode i) = .ok i) ∧
  ∀ (k : Codes) (i : Instr), k.Complete → i.wellFormed = true → decodeWith k (encodeWith k i) = .ok i

/-- O2. Whatever 24-bit word decodes, the instruction it decodes to is well formed and its encoding is that word, so
each instruction has one word and no bit of a word is dropped. The default tables are log 3. (30_encoding.md R111,
30_encoding.md R161) -/
def Obligations.EncodeDecode : Prop :=
  ∀ (w : PmWord) (i : Instr), decode w = .ok i → i.wellFormed = true ∧ encode i = w

/-- O3. A 24-bit word is decoded to no instruction exactly when it is in the list of R160 (items 2 to 4), written
out by leading byte and fields. Words with leading byte 0x08 (item 1) decode to the row (unused), which faults; the
option words (item 5) decode and fault in execution. Rests also on the spec's inferences: what it takes from general
knowledge in the code tables R150 (log 3) and its own decision D5. It speaks of the default tables (log 3).
(30_encoding.md R160, 30_encoding.md R161, 30_encoding.md R150, 30_encoding.md R120) -/
def Obligations.UndefinedWords : Prop :=
  ∀ w : PmWord, (∀ i : Instr, decode w ≠ .ok i) ↔ isNoInstruction w = true

/-- O4. A sanity statement: seventeen words that 95_test_vectors.md prints beside the examples of the sources, one
or more of every family, decode to the instruction of the example. The words rest on the default tables (log 3).
(95_test_vectors.md section 1.1) -/
def Obligations.SampleWords : Prop :=
  decode 0x224000#24 = .ok (.aluAddC .result .ay0 .ax0 .eq) ∧
  decode 0x22725F#24 = .ok (.aluAddK .result 9 false .ar .always) ∧
  decode 0x278A5F#24 = .ok (.aluTstbit .feedback 5 .ar .always) ∧
  decode 0x2AE0AA#24 = .ok (.noneAlu .subXY .ay0 .ax0) ∧
  decode 0x20F000#24 = .ok (.macMulUu .result .mf .mx0 .eq) ∧
  decode 0x24861F#24 = .ok (.macSqrMulSs .feedback .sr0 .always) ∧
  decode 0x0E3804#24 = .ok (.ashiftLoOr .si .lt) ∧
  decode 0x0F07FA#24 = .ok (.lshiftImmHi .sr1 0xFA) ∧
  decode 0x0D083A#24 = .ok (.moveReg (.i 7) (.dreg .ar)) ∧
  decode 0x83FFA8#24 = .ok (.readDm 0x3FFA (.dreg .si)) ∧
  decode 0x18123E#24 = .ok (.jump 0x0123 .notCe) ∧
  decode 0x033452#24 = .ok (.jumpFlag 0x0345 true) ∧
  decode 0x14110E#24 = .ok (.doUntil 0x0110 .ce) ∧
  decode 0x04001C#24 = .ok (.stackControl true true true .keep) ∧
  decode 0x0C3800#24 = .ok (.modeControl .keep .ena .dis .keep .keep .keep .keep) ∧
  decode 0x626000#24 = .ok (.compReadDm .dag1 .result (.alu .add .ay0 .ax0) .ax0 0 0) ∧
  decode 0xE96000#24 = .ok (.compDualRead .my0 .mx0 (.mac ⟨.add, .uu⟩ .my0 .mx0) 0 0 0 0)

/-- O5. The row (unused), a word with leading byte 0x08, is the fault UnusedEncoding of its word in every state
(constructor unused). A step whose fetched word the code tables of the configuration decode to no instruction, with
no interrupt to take, is the fault UnusedEncoding of that word; with the default tables so is one whose word is in
the list of R160. Rests also on the spec's inferences: its own decisions D5, D9. The default tables are log 3; the
row (unused) is log 27. (30_encoding.md R133, 30_encoding.md R160, 60_exceptions.md R431, 44_program_flow.md R335)
-/
def Obligations.UnusedEncodingFaults : Prop :=
  (∀ (u : BitVec 16) (s : State),
    exec (.unused u) s = .fault (.unusedEncoding (BitVec.ofNat 24 (0x080000 + u.toNat)))) ∧
  (∀ (s : State) (w : PmWord), NoInterrupt s → Fetches s w →
    ((∀ i : Instr, decodeWith s.cfg.codes w ≠ .ok i) ∨ (s.cfg.codes = standardCodes ∧ isNoInstruction w = true)) →
    step s = .fault (.unusedEncoding w))

/-- O6. Constant and squaring forms and ENA/DIS INTS without hasExt, the I/O moves without hasIO, and flag-out words
that name FL0 to FL2 without hasFL are the model fault UnusedEncoding of their word, in every state. Rests also on
the spec's inferences: its own decisions D3, D5, D9. The word is that of the code tables of the configuration (log
3). (30_encoding.md R160, 00_scope.md R4, 44_program_flow.md R345, 60_exceptions.md R431) -/
def Obligations.MissingOptionFaults : Prop :=
  ∀ (i : Instr) (s : State), memberHas s.cfg.member i = false →
    exec i s = .fault (.unusedEncoding (encodeWith s.cfg.codes i))

/-- O7. For every instruction with a COND field that the member has: if the condition is false, exec answers the
next state in which nothing has changed, except that NOT CE has decremented CNTR modulo 2^14. Rests also on the
spec's inferences: what it takes from general knowledge in R48 (log 4) and its own decision D10. (40_alu.md R174,
41_mac.md R241, 42_shifter.md R273, 44_program_flow.md R336, 10_state.md R48) -/
def Obligations.FalseConditionIsNop : Prop :=
  ∀ (i : Instr) (c : Cond) (s : State), conditionOf i = some c → memberHas s.cfg.member i = true →
    condHolds c s = false →
    exec i s = .next
      (if c = .notCe then
        { s with seq := { s.seq with cntr := BitVec.ofNat 14 (s.seq.cntr.toNat + 16383) } }
      else s)

/-- O8. The counter condition, through the direct JUMP: CNTR is decremented whether or not the jump is taken, and
the jump is taken exactly when CNTR was not 1. Nothing else changes. Rests also on the spec's inferences: what it
takes from general knowledge in R48 (log 4) and its own decision D10. (10_state.md R48, 44_program_flow.md R331,
44_program_flow.md R336) -/
def Obligations.NotCeCountsDown : Prop :=
  ∀ (a : Addr) (s : State), ∃ t,
    exec (.jump a .notCe) s = .next t ∧
    t.seq.cntr.toNat = (s.seq.cntr.toNat + 16383) % 16384 ∧
    t.seq.transfer = (if s.seq.cntr.toNat = 1 then s.seq.transfer else some a) ∧
    t = { s with seq := { s.seq with cntr := t.seq.cntr, transfer := t.seq.transfer } }

/-- O9. aluPassY, aluIncY, aluAddC, aluAdd, aluNotY, aluNegY, aluSubXYBorrow, aluSubXY, aluDecY, aluSubYX,
aluSubYXBorrow, aluNotX, aluAnd, aluOr, aluXor, aluAbs: when the condition holds exec answers a next state; AF, or
AR, holds the exact integer result modulo 2^16 (AR full scale on an overflow under AR_SAT, or, in the one situation
U2, one of the two by a draw); AZ, AN, AV, AC, and AS for ABS, are as the integers say; every other flag, register,
stack and memory word is unchanged, but that NOT CE counts CNTR down. Rests also on the spec's inferences: what it
takes from general knowledge in R33, R170, R171, R172 (log 4) and its own decisions D15, D23. The draws are free
values (log 12). (40_alu.md R170 to R175, 40_alu.md R176 to R183, 40_alu.md R188, 40_alu.md R191 to R195,
10_state.md R33, 93_implementation_defined.md U2) -/
def Obligations.AluRegisterForms : Prop :=
  ∀ (f : AluFn) (z : Dest) (y : AluYop) (x : AluXop) (c : Cond) (s : State), condHolds c s = true →
    ∃ t, exec (aluForm f z y x c) s = .next t ∧
      AluEffect f z (aluX x (activeBank s)) (aluY y (activeBank s)) (afterCond c s) t

/-- O10. aluAddK, aluAddKC, aluSubXK, aluSubXKBorrow, aluSubKX, aluSubKXBorrow, aluTstbit, aluClrbit, aluSetbit,
aluOrNotBit, aluTglbit, aluXorNotBit, aluNotK, aluNegK, aluNotXK, aluAbsK: on a member with hasExt and with the
condition true, exec answers a next state as for the register form, the Y operand being 2^n or its complement. Rests
also on the spec's inferences: what it takes from general knowledge in R170, R171, R172 (log 4), the code tables
R152 (log 3) and its own decisions D15, D23. (40_alu.md R174, 40_alu.md R175 to R187, 40_alu.md R170 to R172,
30_encoding.md R152) -/
def Obligations.AluConstantForms : Prop :=
  ∀ (f : AluFn) (z : Dest) (n : BitVec 4) (inv : Bool) (x : AluXop) (c : Cond) (i : Instr) (s : State),
    aluConstForm f z n inv x c = some i → s.cfg.member.hasExt = true → condHolds c s = true →
    ∃ t, exec i s = .next t ∧ AluEffect f z (aluX x (activeBank s)) (constWord n inv) (afterCond c s) t

/-- O11. aluPassK, aluPassKInc, aluPassKDec: on a member with hasExt and with the condition true, exec answers a
next state in which the destination holds the constant, one more or one less (AR holds an open value under AR_SAT),
AS, AQ, MV and SS are kept, AZ, AN, AV and AC are any bits, and nothing else has changed but the draw counter and,
for NOT CE, CNTR. Rests also on the spec's inferences: its own decision D12. The open values are free values (log
12); that AV is open also under AV_LATCH is DEDUCED (log 16). (40_alu.md R190, 92_eei_decisions.md D12,
93_implementation_defined.md U1) -/
def Obligations.PassConstantForms : Prop :=
  ∀ (k : PassKind) (z : Dest) (n : BitVec 4) (inv : Bool) (x : AluXop) (c : Cond) (s : State),
    s.cfg.member.hasExt = true → condHolds c s = true →
    ∃ t v, exec (passForm k z n inv x c) s = .next t ∧
      (z = .feedback ∨ arSat s = false → v = passValue k n inv) ∧
      (∀ j < 8, 4 ≤ j → t.astat.getLsbD j = s.astat.getLsbD j) ∧
      t = countDraw (setAstat t.astat (setBank (withAluDest z v (activeBank s)) (afterCond c s)))

/-- O12. noneAlu: on a member with hasExt exec answers a next state that differs from the state before in ASTAT
alone, with the flags of the ALU function; on another member the word names AR twice and is the model fault
SameDestination. Rests also on the spec's inferences: what it takes from general knowledge in R170, R171 (log 4) and
its own decisions D11, D15. The word is that of the code tables of the configuration (log 3). (40_alu.md R198,
40_alu.md R170, 40_alu.md R171, 46_multifunction.md R402) -/
def Obligations.NoneStatus : Prop :=
  ∀ (f : AluFn) (y : AluYop) (x : AluXop) (s : State),
    (s.cfg.member.hasExt = true →
      ∃ t, exec (.noneAlu f y x) s = .next t ∧
        AluStatus f (aluX x (activeBank s)) (aluY y (activeBank s)) s t ∧ t = setAstat t.astat s) ∧
    (s.cfg.member.hasExt = false →
      exec (.noneAlu f y x) s = .fault (.sameDestination (encodeWith s.cfg.codes (.noneAlu f y x))))

/-- O13. Whatever the operands: after an unconditional AR|AF = xop - yop in a state with AV_LATCH = 0, the
conditions EQ, NE, LT, GE, GT, LE hold exactly when x = y, x is not y, x < y, x >= y, x > y, x <= y as signed
numbers, and AC exactly when there is no borrow. Rests also on the spec's inferences: what it takes from general
knowledge in R47, R171 (log 4) and its own decision D15. (10_state.md R47, 40_alu.md R177, 40_alu.md R171) -/
def Obligations.CompareThenTest : Prop :=
  ∀ (z : Dest) (y : AluYop) (x : AluXop) (s : State), avLatch s = false →
    ∃ t, exec (.aluSubXY z y x .always) s = .next t ∧
      condHolds .eq t = decide (aluX x (activeBank s) = aluY y (activeBank s)) ∧
      condHolds .ne t = decide (aluX x (activeBank s) ≠ aluY y (activeBank s)) ∧
      condHolds .lt t = decide ((aluX x (activeBank s)).toInt < (aluY y (activeBank s)).toInt) ∧
      condHolds .ge t = decide ((aluY y (activeBank s)).toInt ≤ (aluX x (activeBank s)).toInt) ∧
      condHolds .gt t = decide ((aluY y (activeBank s)).toInt < (aluX x (activeBank s)).toInt) ∧
      condHolds .le t = decide ((aluX x (activeBank s)).toInt ≤ (aluY y (activeBank s)).toInt) ∧
      condHolds .ac t = decide ((aluY y (activeBank s)).toNat ≤ (aluX x (activeBank s)).toNat)

/-- O14. divs, divq: exec answers a next state for every operand. DIVS shifts yop:AY0 into AF:AY0 with the xor of
the signs as new low bit and as AQ. DIVQ adds or subtracts xop from AF by AQ, shifts with AY0, and puts the
complement of the new AQ in bit 0 of AY0. No other flag, register or memory word changes. Rests also on the spec's
inferences: what it takes from general knowledge in R196, R197 (log 4) and its own decision D31. (40_alu.md R196,
40_alu.md R197, 92_eei_decisions.md D31) -/
def Obligations.DivideSteps : Prop :=
  ∀ (x : AluXop) (s : State),
    (∀ y : DivsYop, ∃ t, exec (.divs y x) s = .next t ∧
      flagAq t = ((aluX x (activeBank s)).msb != (divsY y (activeBank s)).msb) ∧
      (∀ j < 8, j ≠ 5 → t.astat.getLsbD j = s.astat.getLsbD j) ∧
      t = setAstat t.astat (setBank { activeBank s with
        af := BitVec.ofNat 16 (2 * (divsY y (activeBank s)).toNat + (activeBank s).ay0.toNat / 2 ^ 15)
        ay0 := BitVec.ofNat 16 (2 * (activeBank s).ay0.toNat + (flagAq t).toNat) } s)) ∧
    (∃ t, ∃ r : Word, exec (.divq x) s = .next t ∧
      r = (if flagAq s then (activeBank s).af + aluX x (activeBank s)
        else (activeBank s).af - aluX x (activeBank s)) ∧
      flagAq t = (r.msb != (aluX x (activeBank s)).msb) ∧
      (∀ j < 8, j ≠ 5 → t.astat.getLsbD j = s.astat.getLsbD j) ∧
      t = setAstat t.astat (setBank { activeBank s with
        af := BitVec.ofNat 16 (2 * r.toNat + (activeBank s).ay0.toNat / 2 ^ 15)
        ay0 := BitVec.ofNat 16 (2 * (activeBank s).ay0.toNat + (!flagAq t).toNat) } s))

/-- O15. macMulRnd/Ss/Su/Us/Uu, macAddRnd/Ss/Su/Us/Uu, macSubRnd/Ss/Su/Us/Uu: when the condition holds exec answers
a next state; MR, or MF, holds the exact product, sum or difference modulo 2^40 (doubled in fractional mode, rounded
half to even unless biased under RND), MV says whether the result needs more than 32 bits, and nothing else changes
but CNTR for NOT CE. Rests also on the spec's inferences: what it takes from general knowledge in R230, R231, R233
(log 4) and its own decision D22. (41_mac.md R230 to R237, 41_mac.md R241, 41_mac.md R244) -/
def Obligations.MacForms : Prop :=
  ∀ (f : MacFn) (z : Dest) (y : MacYop) (x : MacXop) (c : Cond) (s : State), condHolds c s = true →
    ∃ t, exec (macForm f z y x c) s = .next t ∧
      MacEffect f z (macX x (activeBank s)) (macY y (activeBank s)) (afterCond c s) t

/-- O16. macSqrMulRnd/Ss/Uu, macSqrAddRnd/Ss/Uu, macSqrSubRnd/Ss/Uu: on a member with hasExt and with the condition
true, exec answers a next state as for the register form, both operands being the xop. Rests also on the spec's
inferences: what it takes from general knowledge in R230, R231, R233 (log 4) and its own decisions D5, D22.
(41_mac.md R242, 41_mac.md R230 to R237, 41_mac.md R241) -/
def Obligations.MacSquaringForms : Prop :=
  ∀ (f : MacFn) (z : Dest) (x : MacXop) (c : Cond) (i : Instr) (s : State),
    squareForm f z x c = some i → s.cfg.member.hasExt = true → condHolds c s = true →
    ∃ t, exec i s = .next t ∧
      MacEffect f z (macX x (activeBank s)) (macX x (activeBank s)) (afterCond c s) t

/-- O17. satMr: exec answers a next state. With MV = 0 it is the same state; with MV = 1 MR becomes 00 7FFF FFFF or
FF 8000 0000 by the most significant bit of MR2, and nothing else changes: MV stays 1. (R240) -/
def Obligations.SaturateMr : Prop :=
  ∀ s : State,
    exec .satMr s = .next
      (if flagMv s then
        setBank { activeBank s with
          mr2 := (if (activeBank s).mr2.toInt < 0 then 0xFF#8 else 0#8)
          mr1 := (if (activeBank s).mr2.toInt < 0 then 0x8000#16 else 0x7FFF#16)
          mr0 := (if (activeBank s).mr2.toInt < 0 then 0#16 else 0xFFFF#16) } s
      else s)

/-- O18. lshiftHi/HiOr/Lo/LoOr, ashiftHi/HiOr/Lo/LoOr, normHi/HiOr/Lo/LoOr: when the condition holds exec answers a
next state in which bit k of SR is the bit of the input that the shift code brings there, zero on its right, the
extension bit on its left (0, the sign, or AC for NORM HI), ORed with the old SR under SR OR. The code is SE, and
minus SE for NORM. Nothing else changes but CNTR for NOT CE. Rests also on the spec's inferences: what it takes from
general knowledge in R261 (log 4) and its own decision D24. (42_shifter.md R260 to R267, 42_shifter.md R273) -/
def Obligations.ShiftForms : Prop :=
  ∀ (ref : HiLo) (o : Bool) (x : ShiftXop) (c : Cond) (s : State), condHolds c s = true →
    (∃ t, exec (shiftForm (.lshift ref o) x c) s = .next t ∧
      ShiftEffect (shiftX x (activeBank s)) (activeBank s).se.toInt ref false o (afterCond c s) t) ∧
    (∃ t, exec (shiftForm (.ashift ref o) x c) s = .next t ∧
      ShiftEffect (shiftX x (activeBank s)) (activeBank s).se.toInt ref (shiftX x (activeBank s)).msb o
        (afterCond c s) t) ∧
    (∃ t, exec (shiftForm (.norm ref o) x c) s = .next t ∧
      ShiftEffect (shiftX x (activeBank s)) (-(activeBank s).se.toInt) ref (ref == .hi && flagAc s) o
        (afterCond c s) t)

/-- O19. lshiftImmHi/HiOr/Lo/LoOr, ashiftImmHi/HiOr/Lo/LoOr: exec answers a next state for every input and every
code -128 to 127, with SR as in the conditional forms; nothing else changes. Rests also on the spec's inferences:
what it takes from general knowledge in R261 (log 4) and its own decision D24. (42_shifter.md R270, 42_shifter.md
R271, 42_shifter.md R260 to R264) -/
def Obligations.ShiftImmediates : Prop :=
  ∀ (arith : Bool) (ref : HiLo) (o : Bool) (x : ShiftXop) (e : BitVec 8) (s : State),
    ∃ t, exec (shiftImmForm arith ref o x e) s = .next t ∧
      ShiftEffect (shiftX x (activeBank s)) e.toInt ref (arith && (shiftX x (activeBank s)).msb) o s t

/-- O20. expHi, expHix, expLo: when the condition holds exec answers a next state. HI writes SE with minus the
number of redundant sign bits and SS with the sign; HIX with AV = 1 writes SE = 1 and the opposite sign, else as HI;
LO, where SE is -15, writes SE with -15 minus the number (0 to 16) of leading bits that equal SS, else keeps it, and
keeps SS. Nothing else changes but CNTR for NOT CE. Rests also on the spec's inferences: what it takes from general
knowledge in R268 (log 4) and its own decision D32. (42_shifter.md R268, 42_shifter.md R272, 42_shifter.md R273) -/
def Obligations.DeriveExponent : Prop :=
  ∀ (x : ShiftXop) (c : Cond) (s : State), condHolds c s = true →
    (∃ e : Int, IsExponent (shiftX x (activeBank s)) e ∧
      (∃ t, exec (.expHi x c) s = .next t ∧
        ExpEffect (BitVec.ofInt 8 e) (shiftX x (activeBank s)).msb (afterCond c s) t) ∧
      (∃ t, exec (.expHix x c) s = .next t ∧
        if flagAv s then ExpEffect 1#8 (!(shiftX x (activeBank s)).msb) (afterCond c s) t
        else ExpEffect (BitVec.ofInt 8 e) (shiftX x (activeBank s)).msb (afterCond c s) t)) ∧
    (∃ n : Nat, IsLeadingRun (flagSs s) (shiftX x (activeBank s)) n ∧
      exec (.expLo x c) s = .next
        (if (activeBank s).se.toInt = -15 then
          setBank { activeBank s with se := BitVec.ofInt 8 (-15 - n) } (afterCond c s)
        else afterCond c s))

/-- O21. expadj: when the condition holds exec answers a next state. With e minus the number of redundant sign bits
of the input: SB becomes e if e is greater than SB as signed numbers, else it is kept. SR, SE, ASTAT and everything
else are unchanged but CNTR for NOT CE. (42_shifter.md R269, 42_shifter.md R272) -/
def Obligations.AdjustBlockExponent : Prop :=
  ∀ (x : ShiftXop) (c : Cond) (s : State), condHolds c s = true →
    ∃ e : Int, IsExponent (shiftX x (activeBank s)) e ∧
      exec (.expadj x c) s = .next
        (if (activeBank s).sb.toInt < e then
          setBank { activeBank s with sb := BitVec.ofInt 5 e } (afterCond c s)
        else afterCond c s)

/-- O22. AX0 = reg, for every register a move can read but RX0 and RX1 (whose reads are inputs): exec answers the
next state in which AX0 holds the contents zero-filled for I, L, CNTR, PX, ASTAT, MSTAT, SSTAT, IMASK, ICNTL,
sign-extended for M, SE, SB, MR2, unchanged for 16-bit registers, and nothing else changes; DM(addr) = reg stores
that same value in a RAM word. Rests also on the spec's inferences: what it takes from general knowledge in R24,
R26, R39 (log 4) and its own decision D17. What a read of TX0 and TX1 gives is log 19 (D17, DEDUCED); the widths of
M, SE and SB are log 4 (R24, R26), those of IMASK and ICNTL log 23 (DEDUCED). (10_state.md R30, 10_state.md R24,
10_state.md R26, 10_state.md R39, 10_state.md R40) -/
def Obligations.BusValues : Prop :=
  ∀ (r : Reg) (s : State), r.isSource = true → r ≠ .rx0 → r ≠ .rx1 →
    ∃ v : Word, IsBusValue r s v ∧
      exec (.moveReg (.dreg .ax0) r) s = .next (setBank { activeBank s with ax0 := v } s) ∧
      ∀ a : Addr, regionKind s.cfg.dmMap a.toNat = some .ram →
        ∃ t, exec (.writeDm a r) s = .next t ∧ t.mem.dm.read a.toNat = some v

/-- O23. moveReg: for every source a move can read and every destination it can write, exec answers a next state:
RX0 and RX1 give any word and an event, every other source its bus value; the destination keeps its low bits, MR1
extends into MR2, CNTR pushes the counter stack (which must have room), OWRCNTR does not, IFC clears and forces
latches, TX emits an event; nothing else changes. Rests also on the spec's inferences: what it takes from general
knowledge in R41, R44, R442 (log 4) and its own decisions D4, D14, D17, D18. The inputs are free values (log 12);
the reads and writes of RX and TX are log 19 (D17, DEDUCED). CNTR, OWRCNTR and IFC rest on R41, R44, R442 (general
knowledge, logs 4 and 13) and D18, a write of OWRCNTR as the first load on log 28; that a write of ICNTL clears bit
3 is log 23 (DEDUCED from R441, where R303 keeps the low bits); the widths of M, SE and SB are log 4 (R24, R26),
those of IMASK, ICNTL and IFC log 23. (43_move.md R290, 43_move.md R302, 43_move.md R303, 10_state.md R23,
10_state.md R30, 10_state.md R31, 10_state.md R40, 10_state.md R41, 10_state.md R44, 60_exceptions.md R442) -/
def Obligations.RegisterMoves : Prop :=
  ∀ (d r : Reg) (s : State), r.isSource = true → regWritable d s →
    ∃ v u t, RegReads r s v u ∧ RegWritten d v u t ∧ exec (.moveReg d r) s = .next t

/-- O24. loadDreg, loadReg: exec answers a next state in which the destination holds the 16-bit data, or the 14-bit
data sign-extended, truncated to its width and with the side effects of R303 (a load of CNTR needs room on the
counter stack); nothing else changes. Rests also on the spec's inferences: its own decision D4. CNTR, OWRCNTR and
IFC rest on R41, R44, R442 (general knowledge, logs 4 and 13) and D18, a write of OWRCNTR as the first load on log
28; that a write of ICNTL clears bit 3 is log 23 (DEDUCED from R441, where R303 keeps the low bits); the widths of
M, SE and SB are log 4 (R24, R26), those of IMASK, ICNTL and IFC log 23; RX and TX are log 19 (D17, DEDUCED).
(43_move.md R291, 43_move.md R292, 43_move.md R303) -/
def Obligations.ImmediateLoads : Prop :=
  (∀ (v : Word) (d : DReg) (s : State), ∃ t, exec (.loadDreg v d) s = .next t ∧ DregWritten d v s t) ∧
  (∀ (v : BitVec 14) (d : Reg) (s : State), d.isDreg = false → regWritable d s →
    ∃ w t, w.toInt = v.toInt ∧ RegWritten d w s t ∧ exec (.loadReg v d) s = .next t)

/-- O25. readDm, writeDm: on a location that can be read, any destination that can be written receives the word; on
a location that can be written, the bus value of any source is stored there and no other word of DM or PM changes; a
device location gives any word, or takes the value, with an event. Nothing else changes. Rests also on the spec's
inferences: its own decision D28. A device value and an input are free values (log 12); RX and TX are log 19 (D17,
DEDUCED). CNTR, OWRCNTR and IFC rest on R41, R44, R442 (general knowledge, logs 4 and 13) and D18, a write of
OWRCNTR as the first load on log 28; that a write of ICNTL clears bit 3 is log 23 (DEDUCED from R441, where R303
keeps the low bits); the widths of M, SE and SB are log 4 (R24, R26), those of IMASK, ICNTL and IFC log 23.
(43_move.md R293, 43_move.md R296, 20_memory.md R85, 20_memory.md R86, 20_memory.md R89) -/
def Obligations.DirectDataMoves : Prop :=
  (∀ (a : Addr) (d : Reg) (s : State), dmReadable s a → regWritable d s →
    ∃ v u t, DmReads s a v u ∧ RegWritten d v u t ∧ exec (.readDm a d) s = .next t) ∧
  (∀ (a : Addr) (r : Reg) (s : State), r.isSource = true → dmWritable s a →
    ∃ v u t, RegReads r s v u ∧ DmWrites u a v t ∧ exec (.writeDm a r) s = .next t)

/-- O26. readDmInd, writeDmInd, writeDmImm: at the address addrOut gives on the state before, the word is read into
the data register, or the register or the data is stored and no other word changes; then the I register is modified
by the M register. Nothing else changes. Rests also on the spec's inferences: what it takes from general knowledge
in R91, R93 (log 4). The address rests on R93 and the post-modify on R91 (general knowledge, log 4), the open index
is a free value (log 12), as is a device value. (43_move.md R294, 43_move.md R297, 43_move.md R298, 43_move.md R304,
20_memory.md R90, 20_memory.md R91, 20_memory.md R93) -/
def Obligations.IndirectDataMoves : Prop :=
  ∀ (g : DagSel) (i m : BitVec 2) (s : State),
    (dmReadable s (addrOut s (dagIdx g i)) → ∀ d : DReg,
      ∃ v u u1 t, DmReads s (addrOut s (dagIdx g i)) v u ∧ DregWritten d v u u1 ∧
        PostModified (dagIdx g i) (dagIdx g m) u1 t ∧ exec (.readDmInd g d i m) s = .next t) ∧
    (dmWritable s (addrOut s (dagIdx g i)) →
      (∀ r : DReg, ∃ u t, DmWrites s (addrOut s (dagIdx g i)) (dregVal r (activeBank s)) u ∧
        PostModified (dagIdx g i) (dagIdx g m) u t ∧ exec (.writeDmInd g r i m) s = .next t) ∧
      (∀ v : Word, ∃ u t, DmWrites s (addrOut s (dagIdx g i)) v u ∧
        PostModified (dagIdx g i) (dagIdx g m) u t ∧ exec (.writeDmImm g v i m) s = .next t))

/-- O27. readPmInd, writePmInd: a read puts bits 23-8 of the word in the data register and bits 7-0 in PX; a write
stores the register over PX at that address and leaves every other word of PM and DM; then the I register is
modified. Nothing else changes, but that the write is remembered for the prefetch rule. Rests also on the spec's
inferences: what it takes from general knowledge in R91 (log 4) and its own decision D20. The address rests on R93
and the post-modify on R91 (general knowledge, log 4), the open index is a free value (log 12); a device location of
PM, which R85 and R86 do not have, gives a drawn word and an event (log 15, DEDUCED), and a write to one stores
nothing and is remembered for the prefetch rule as every PM write is (log 10, DESIGN CHOICE). (43_move.md R295,
43_move.md R299, 20_memory.md R95, 20_memory.md R96, 20_memory.md R91, 20_memory.md R100) -/
def Obligations.IndirectProgramMoves : Prop :=
  ∀ (i m : BitVec 2) (s : State),
    (pmReadable s (addrOut s (dagIdx .dag2 i)) → ∀ d : DReg,
      ∃ p u t, PmReads s (addrOut s (dagIdx .dag2 i)) p u ∧
        PmLoaded d (dagIdx .dag2 i) (dagIdx .dag2 m) p u t ∧ exec (.readPmInd d i m) s = .next t) ∧
    (pmWritable s (addrOut s (dagIdx .dag2 i)) → ∀ r : DReg,
      ∃ u t, PmWrites s (addrOut s (dagIdx .dag2 i)) (pmWordOf (dregVal r (activeBank s)) s.px) u ∧
        PostModified (dagIdx .dag2 i) (dagIdx .dag2 m) u t ∧ exec (.writePmInd r i m) s = .next t)

/-- O28. readIo, writeIo: on a member with hasIO and at a populated location, a read puts any word in the data
register and emits the read event with it; a write emits the write event with the bus value. Nothing else changes.
Rests also on the spec's inferences: its own decisions D2, D14. The input is a free value (log 12). (43_move.md
R300, 43_move.md R301, 20_memory.md R82, 20_memory.md R88) -/
def Obligations.IoMoves : Prop :=
  ∀ (a : IoAddr) (d : DReg) (s : State),
    s.cfg.member.hasIO = true → (regionKind s.cfg.ioMap a.toNat).isSome = true →
    (∃ v t, DregWritten d v (emit (.ioRead a v) (countDraw s)) t ∧ exec (.readIo a d) s = .next t) ∧
    exec (.writeIo a d) s = .next (emit (.ioWrite a (dregVal d (activeBank s))) s)

/-- O29. Through the direct DM moves, the indirect PM moves and the I/O moves: outside the map the access is the
fault Unpopulated of that address, a write to a read-only location of DM or PM too, and the read of a RAM or ROM
word never written is the fault Unwritten of that address. Rests also on the spec's inferences: what it takes from
general knowledge in R87 (log 4) and its own decisions D5, D6, D9, D28. The address of the PM moves rests on R93
(log 4); an unwritten word faults by log 8. (20_memory.md R85, 20_memory.md R86, 20_memory.md R87, 60_exceptions.md
R431, 92_eei_decisions.md D6, 92_eei_decisions.md D28) -/
def Obligations.AbsentMemoryFaults : Prop :=
  ∀ s : State,
    (∀ (a : Addr) (d r : Reg), r.isSource = true → regionKind s.cfg.dmMap a.toNat = none →
      exec (.readDm a d) s = .fault (.unpopulatedDM a) ∧ exec (.writeDm a r) s = .fault (.unpopulatedDM a)) ∧
    (∀ (a : Addr) (r : Reg), r.isSource = true → regionKind s.cfg.dmMap a.toNat = some .rom →
      exec (.writeDm a r) s = .fault (.unpopulatedDM a)) ∧
    (∀ (a : Addr) (d : Reg), ¬ dmReadable s a → regionKind s.cfg.dmMap a.toNat ≠ none →
      exec (.readDm a d) s = .fault (.unwrittenDM a)) ∧
    (∀ (d : DReg) (i m : BitVec 2), regionKind s.cfg.pmMap (addrOut s (dagIdx .dag2 i)).toNat = none →
      exec (.readPmInd d i m) s = .fault (.unpopulatedPM (addrOut s (dagIdx .dag2 i))) ∧
      exec (.writePmInd d i m) s = .fault (.unpopulatedPM (addrOut s (dagIdx .dag2 i)))) ∧
    (∀ (d : DReg) (i m : BitVec 2), regionKind s.cfg.pmMap (addrOut s (dagIdx .dag2 i)).toNat = some .rom →
      exec (.writePmInd d i m) s = .fault (.unpopulatedPM (addrOut s (dagIdx .dag2 i)))) ∧
    (∀ (d : DReg) (i m : BitVec 2), ¬ pmReadable s (addrOut s (dagIdx .dag2 i)) →
      regionKind s.cfg.pmMap (addrOut s (dagIdx .dag2 i)).toNat ≠ none →
      exec (.readPmInd d i m) s = .fault (.unwrittenPM (addrOut s (dagIdx .dag2 i)))) ∧
    (∀ (a : IoAddr) (d : DReg), s.cfg.member.hasIO = true → regionKind s.cfg.ioMap a.toNat = none →
      exec (.readIo a d) s = .fault (.unpopulatedIO a) ∧ exec (.writeIo a d) s = .fault (.unpopulatedIO a))

/-- O30. moveFromTop, moveToTop, for every register the forms may name: with no pop pending and a stack that is not
empty, the register receives the top entry zero-filled and the pop is pending; with no pop pending and room, the low
14 bits of the bus value are pushed. Nothing else changes. Rests also on the spec's inferences: its own decisions
D5, D9, D16, D26. The check for a pending pop is log 5; the widths of M and SE are log 4 (R24, R26). (45_misc.md
R374, 45_misc.md R375, 45_misc.md R376, 10_state.md R60) -/
def Obligations.TopPcStackForms : Prop :=
  ∀ (r : Reg) (s : State), r.isTopReg = true → s.seq.pcPopPending = false →
    (∀ a rest, s.seq.pcStack = a :: rest →
      ∃ v u, v.toNat = a.toNat ∧ RegWritten r v s u ∧
        exec (.moveFromTop r) s = .next { u with seq := { u.seq with pcPopPending := true } }) ∧
    (s.seq.pcStack.length < 16 →
      ∃ v, IsBusValue r s v ∧
        exec (.moveToTop r) s =
          .next { s with seq := { s.seq with pcStack := BitVec.ofNat 14 v.toNat :: s.seq.pcStack } })

/-- O31. modify: exec answers a next state in which the selected I register is I + M modulo 2^14 with length 0, else
wrapped into the circular buffer; outside the precondition of the modulus logic the new I register is open and the
draw is counted. Nothing else changes. Rests also on the spec's inferences: what it takes from general knowledge in
R91 (log 4). The open value is a free value (log 12). (45_misc.md R385, 20_memory.md R91,
93_implementation_defined.md U11) -/
def Obligations.ModifyAddress : Prop :=
  ∀ (g : DagSel) (i m : BitVec 2) (s : State),
    ∃ t, PostModified (dagIdx g i) (dagIdx g m) s t ∧ exec (.modify g i m) s = .next t

/-- O32. addrOut of I0 to I3 with BIT_REV = 1 has bit k equal to bit 13 - k of the I register; with BIT_REV = 0, and
for I4 to I7, it is the I register. Through DM(Ia, Mb) = data: the word is stored at that address while I itself is
post-modified unreversed; MODIFY is the same with BIT_REV on and off. Rests also on the spec's inferences: what it
takes from general knowledge in R93 (log 4). (20_memory.md R93, 45_misc.md R385) -/
def Obligations.BitReversedAddress : Prop :=
  ∀ (g : DagSel) (i m : BitVec 2) (s : State),
    (g = .dag1 → s.mstat.getLsbD 1 = true →
      ∀ k < 14, (addrOut s (dagIdx g i)).getLsbD k = s.dag.i[dagIdx g i].getLsbD (13 - k)) ∧
    (g = .dag2 ∨ s.mstat.getLsbD 1 = false → addrOut s (dagIdx g i) = s.dag.i[dagIdx g i]) ∧
    (∀ v : Word, regionKind s.cfg.dmMap (addrOut s (dagIdx g i)).toNat = some .ram → s.dag.l[dagIdx g i] = 0 →
      ∃ t, exec (.writeDmImm g v i m) s = .next t ∧
        t.mem.dm.read (addrOut s (dagIdx g i)).toNat = some v ∧
        t.dag.i[dagIdx g i] = s.dag.i[dagIdx g i] + s.dag.m[dagIdx g m]) ∧
    (∃ t, exec (.modify g i m) s = .next t ∧
      exec (.modify g i m) { s with mstat := s.mstat ^^^ 2#7 } = .next { t with mstat := t.mstat ^^^ 2#7 })

/-- O33. jump, call, jumpInd, callInd, jumpFlag, callFlag: when the condition holds (or FI equals the FIC bit) exec
answers the next state with the transfer to the target: the address of the word or the I register I4 to I7, not
modified. CALL needs room on the PC stack and no pending pop, and pushes PC + 1. Nothing else changes but CNTR for
NOT CE; with FI different, nothing at all. Rests also on the spec's inferences: its own decision D9.
(44_program_flow.md R330 to R334, 44_program_flow.md R336, 10_state.md R55) -/
def Obligations.JumpsAndCalls : Prop :=
  ∀ (a : Addr) (i : BitVec 2) (c : Cond) (fic : Bool) (s : State),
    (condHolds c s = true →
      exec (.jump a c) s = .next (transferTo a (afterCond c s)) ∧
      exec (.jumpInd i c) s = .next (transferTo (s.dag.i[4 + i.toNat]'(by omega)) (afterCond c s)) ∧
      (s.seq.pcPopPending = false → s.seq.pcStack.length < 16 →
        exec (.call a c) s = .next (transferTo a { afterCond c s with seq := { (afterCond c s).seq with
          pcStack := BitVec.ofNat 14 (s.seq.pc.toNat + 1) :: s.seq.pcStack } }) ∧
        exec (.callInd i c) s = .next (transferTo (s.dag.i[4 + i.toNat]'(by omega))
          { afterCond c s with seq := { (afterCond c s).seq with
            pcStack := BitVec.ofNat 14 (s.seq.pc.toNat + 1) :: s.seq.pcStack } }))) ∧
    (s.ports.fi = fic →
      exec (.jumpFlag a fic) s = .next (transferTo a s) ∧
      (s.seq.pcPopPending = false → s.seq.pcStack.length < 16 →
        exec (.callFlag a fic) s = .next (transferTo a { s with seq := { s.seq with
          pcStack := BitVec.ofNat 14 (s.seq.pc.toNat + 1) :: s.seq.pcStack } }))) ∧
    (s.ports.fi ≠ fic → exec (.jumpFlag a fic) s = .next s ∧ exec (.callFlag a fic) s = .next s)

/-- O34. rts, rti: when the condition holds, no pop is pending and the stacks are not empty, exec answers the next
state with the transfer to the popped address; RTI also loads ASTAT, MSTAT and IMASK from the popped status entry.
INTS and everything else are unchanged but CNTR for NOT CE. Rests also on the spec's inferences: its own decisions
D9, D19. (44_program_flow.md R340, 44_program_flow.md R341, 10_state.md R58, 92_eei_decisions.md D19) -/
def Obligations.Returns : Prop :=
  ∀ (c : Cond) (s : State) (a : Addr) (rest : List Addr), condHolds c s = true → s.seq.pcPopPending = false →
    s.seq.pcStack = a :: rest →
    exec (.rts c) s = .next (transferTo a { afterCond c s with seq := { (afterCond c s).seq with pcStack := rest } }) ∧
    (∀ e more, s.seq.stsStack = e :: more →
      exec (.rti c) s = .next (transferTo a { afterCond c s with
        astat := e.astat, mstat := e.mstat, int := { s.int with imask := e.imask }
        seq := { (afterCond c s).seq with pcStack := rest, stsStack := more } }))

/-- O35. CALL, TOPPCSTACK = reg, PUSH STS and CNTR = data on a full stack are the model fault StackOverflow, with
SSTAT as it is once the overflow bit of that stack is set; RTS, reg = TOPPCSTACK, POP STS, POP CNTR, POP PC and POP
LOOP on an empty stack are StackUnderflow. (No pop is pending.) Rests also on the spec's inferences: its own
decisions D5, D9, D19. That the fault carries SSTAT is the model choice of log 18. (10_state.md R59,
60_exceptions.md R431, 92_eei_decisions.md D9, 45_misc.md R371, 45_misc.md R372) -/
def Obligations.StackFaults : Prop :=
  ∀ s : State, s.seq.pcPopPending = false →
    (16 ≤ s.seq.pcStack.length →
      (∀ a, exec (.call a .always) s = .fault (.stackOverflow .pc (sstat s ||| 2#8))) ∧
      (∀ r : Reg, r.isTopReg = true → exec (.moveToTop r) s = .fault (.stackOverflow .pc (sstat s ||| 2#8)))) ∧
    (s.cfg.stsStackDepth ≤ s.seq.stsStack.length →
      exec (.stackControl false false false .push) s = .fault (.stackOverflow .status (sstat s ||| 0x20#8))) ∧
    (s.cfg.cntrStackDepth ≤ s.seq.cntrStack.length → s.cfg.cntrFirstLoadPushes = true →
      ∀ v, exec (.loadReg v .cntr) s = .fault (.stackOverflow .counter (sstat s ||| 8#8))) ∧
    (s.seq.pcStack = [] →
      exec (.rts .always) s = .fault (.stackUnderflow .pc) ∧
      exec (.stackControl true false false .keep) s = .fault (.stackUnderflow .pc) ∧
      (∀ r : Reg, r.isTopReg = true → exec (.moveFromTop r) s = .fault (.stackUnderflow .pc))) ∧
    (s.seq.loopStack = [] → exec (.stackControl false true false .keep) s = .fault (.stackUnderflow .loop)) ∧
    (s.seq.cntrStack = [] → exec (.stackControl false false true .keep) s = .fault (.stackUnderflow .counter)) ∧
    (s.seq.stsStack = [] → exec (.stackControl false false false .pop) s = .fault (.stackUnderflow .status))

/-- O36. doUntil, with no pop pending: with room on both stacks and another end address than the current loop, it
pushes (address, condition) on the loop stack and PC + 1 on the PC stack; with a full loop or PC stack it sets the
overflow bit of each full stack and nothing else; with room and the end address of the current loop it is the model
fault LoopEndRestriction. Rests also on the spec's inferences: its own decisions D9, D27. The order of the checks is
log 6. (44_program_flow.md R350, 44_program_flow.md R353, 10_state.md R56, 92_eei_decisions.md D27) -/
def Obligations.DoUntilEnters : Prop :=
  ∀ (a : Addr) (term : Term) (s : State), s.seq.pcPopPending = false →
    (s.seq.loopStack.length < 4 → s.seq.pcStack.length < 16 →
      (∀ e rest, s.seq.loopStack = e :: rest → e.last ≠ a) →
      exec (.doUntil a term) s = .next { s with seq := { s.seq with
        loopStack := { last := a, term := term } :: s.seq.loopStack
        pcStack := BitVec.ofNat 14 (s.seq.pc.toNat + 1) :: s.seq.pcStack } }) ∧
    (4 ≤ s.seq.loopStack.length ∨ 16 ≤ s.seq.pcStack.length →
      exec (.doUntil a term) s = .next { s with seq := { s.seq with
        loopOvf := s.seq.loopOvf || decide (4 ≤ s.seq.loopStack.length)
        pcOvf := s.seq.pcOvf || decide (16 ≤ s.seq.pcStack.length) } }) ∧
    (s.seq.loopStack.length < 4 → s.seq.pcStack.length < 16 →
      (∃ e rest, s.seq.loopStack = e :: rest ∧ e.last = a) →
      exec (.doUntil a term) s = .fault .loopEndRestriction)

/-- O37. stackControl, with every stack able to do what is asked (and no pop pending where POP PC is asked): PUSH
STS pushes ASTAT, MSTAT and IMASK, POP STS loads them, POP CNTR loads CNTR, POP PC and POP LOOP discard; what is not
asked is unchanged, and so is everything else. Rests also on the spec's inferences: its own decisions D9, D19. That
POP CNTR leaves CNTR loaded as it was is log 28. (45_misc.md R370 to R372, 10_state.md R58) -/
def Obligations.StackControl : Prop :=
  ∀ (pp lp cp : Bool) (sp : StsOp) (s : State),
    (pp = true → s.seq.pcPopPending = false ∧ s.seq.pcStack ≠ []) → (lp = true → s.seq.loopStack ≠ []) →
    (cp = true → s.seq.cntrStack ≠ []) → (sp = .push → s.seq.stsStack.length < s.cfg.stsStackDepth) →
    (sp = .pop → s.seq.stsStack ≠ []) →
    ∃ t, exec (.stackControl pp lp cp sp) s = .next t ∧
      t.seq.pcStack = (if pp then s.seq.pcStack.tail else s.seq.pcStack) ∧
      t.seq.loopStack = (if lp then s.seq.loopStack.tail else s.seq.loopStack) ∧
      t.seq.cntrStack = (if cp then s.seq.cntrStack.tail else s.seq.cntrStack) ∧
      some t.seq.cntr = (if cp then s.seq.cntrStack.head? else some s.seq.cntr) ∧
      t.seq.stsStack = (if sp = .push then { astat := s.astat, mstat := s.mstat, imask := s.int.imask } :: s.seq.stsStack
        else if sp = .pop then s.seq.stsStack.tail else s.seq.stsStack) ∧
      some ({ astat := t.astat, mstat := t.mstat, imask := t.int.imask } : StsEntry) =
        (if sp = .pop then s.seq.stsStack.head?
        else some { astat := s.astat, mstat := s.mstat, imask := s.int.imask }) ∧
      t = { s with
        astat := t.astat, mstat := t.mstat, int := { s.int with imask := t.int.imask }
        seq := { s.seq with
          pcStack := t.seq.pcStack, loopStack := t.seq.loopStack, cntrStack := t.seq.cntrStack
          cntr := t.seq.cntr, stsStack := t.seq.stsStack } }

/-- O38. modeControl, for every choice of the seven fields: exec answers the next state in which each MSTAT bit is
set for ENA, cleared for DIS and kept otherwise; no other register, flag or memory word changes. (R380) -/
def Obligations.ModeControl : Prop :=
  ∀ (ti mm sat ol br sr gm : ModeOp) (s : State),
    ∃ v : BitVec 7, exec (.modeControl ti mm sat ol br sr gm) s = .next { s with mstat := v } ∧
      v.getLsbD 0 = modeBit sr (s.mstat.getLsbD 0) ∧ v.getLsbD 1 = modeBit br (s.mstat.getLsbD 1) ∧
      v.getLsbD 2 = modeBit ol (s.mstat.getLsbD 2) ∧ v.getLsbD 3 = modeBit sat (s.mstat.getLsbD 3) ∧
      v.getLsbD 4 = modeBit mm (s.mstat.getLsbD 4) ∧ v.getLsbD 5 = modeBit ti (s.mstat.getLsbD 5) ∧
      v.getLsbD 6 = modeBit gm (s.mstat.getLsbD 6)

/-- O39. enaInts, disInts, on a member with hasExt: exec answers the next state that differs in INTS alone. Every
instruction but these two that answers a next state leaves INTS as it was. With INTS = 0 on a member with hasExt no
source can be taken. Rests also on the spec's inferences: its own decisions D3, D19. (45_misc.md R390, 45_misc.md
R391, 10_state.md R61, 92_eei_decisions.md D19) -/
def Obligations.InterruptEnable : Prop :=
  ∀ s : State,
    (s.cfg.member.hasExt = true →
      exec .enaInts s = .next { s with int := { s.int with ints := true } } ∧
      exec .disInts s = .next { s with int := { s.int with ints := false } } ∧
      (s.int.ints = false → interruptToTake s = none)) ∧
    (∀ (i : Instr) (t : State), i ≠ .enaInts → i ≠ .disInts → exec i s = .next t → t.int.ints = s.int.ints)

/-- O40. idle, idleN, nop: exec answers the next state; IDLE and every IDLE (n) set idle and change nothing else,
NOP changes nothing (PC is the step's). Rests also on the spec's inferences: its own decision D30. That the divisor
has no effect is log 25. (44_program_flow.md R360, 44_program_flow.md R361, 45_misc.md R388) -/
def Obligations.IdleAndNop : Prop :=
  ∀ (n : SlowDiv) (s : State),
    exec .idle s = .next { s with int := { s.int with idle := true } } ∧
    exec (.idleN n) s = .next { s with int := { s.int with idle := true } } ∧
    exec .nop s = .next s

/-- O41. flagOut, where the member has the pins named and the condition holds: exec answers the next state in which
FL2, FL1, FL0 and FO are kept, toggled, reset or set, with one event for each pin that changes (in that order, the
model's choice, log 17); nothing else changes but CNTR for NOT CE. Rests also on the spec's inferences: what it
takes from general knowledge in the code tables R155 (log 3) and its own decision D3. (44_program_flow.md R345,
30_encoding.md R155, 10_state.md R49) -/
def Obligations.FlagOutputs : Prop :=
  ∀ (fl2 fl1 fl0 fo : PinOp) (c : Cond) (s : State),
    memberHas s.cfg.member (.flagOut fl2 fl1 fl0 fo c) = true → condHolds c s = true →
    exec (.flagOut fl2 fl1 fl0 fo c) s = .next { afterCond c s with
      ports := { s.ports with
        fl2 := pinTo fl2 s.ports.fl2, fl1 := pinTo fl1 s.ports.fl1, fl0 := pinTo fl0 s.ports.fl0
        fo := pinTo fo s.ports.fo }
      events := s.events ++ (pinEvent .fl2 fl2 s.ports.fl2 ++ (pinEvent .fl1 fl1 s.ports.fl1 ++
        (pinEvent .fl0 fl0 s.ports.fl0 ++ pinEvent .fo fo s.ports.fo))) }

/-- O42. compMove, shiftMove, where the clauses write different registers: exec answers the next state that the
single-function computation gives on the same state, with the destination then holding the source as it was before
the instruction. compMove without a computation is the move alone. (46_multifunction.md R400, 46_multifunction.md
R403, 46_multifunction.md R409, 46_multifunction.md R410) -/
def Obligations.ComputeWithMove : Prop :=
  ∀ (d r : DReg) (s : State),
    (∀ (z : Dest) (op : AluMac), clauseWrites z op d = false →
      ∃ u t, exec (clauseForm z op) s = .next u ∧ DregWritten d (dregVal r (activeBank s)) u t ∧
        exec (.compMove z (some op) d r) s = .next t) ∧
    (∀ (f : ShiftFn) (x : ShiftXop), shiftWrites f d = false →
      ∃ u t, exec (shiftForm f x .always) s = .next u ∧ DregWritten d (dregVal r (activeBank s)) u t ∧
        exec (.shiftMove f x d r) s = .next t) ∧
    (∃ t, DregWritten d (dregVal r (activeBank s)) s t ∧ exec (.compMove .result none d r) s = .next t)

/-- O43. compReadDm, compReadPm, shiftReadDm, shiftReadPm, where the location can be read and the clauses write
different registers: exec answers the next state that the single-function computation gives, with the word read
before it in the destination, PX for PM, and the I register post-modified. The address rests on R93 and the
post-modify on R91 (general knowledge, log 4), the open index is a free value (log 12), as is a device value; a
device location of PM, which R85 and R86 do not have, gives a drawn word and an event (log 15, DEDUCED).
(46_multifunction.md R400, 46_multifunction.md R403, 46_multifunction.md R405 to R408) -/
def Obligations.ComputeWithRead : Prop :=
  ∀ (g : DagSel) (d : DReg) (i m : BitVec 2) (s : State),
    (dmReadable s (addrOut s (dagIdx g i)) →
      (∀ (z : Dest) (op : AluMac), clauseWrites z op d = false →
        ∃ v s1 u u1 t, DmReads s (addrOut s (dagIdx g i)) v s1 ∧ exec (clauseForm z op) s1 = .next u ∧
          DregWritten d v u u1 ∧ PostModified (dagIdx g i) (dagIdx g m) u1 t ∧
          exec (.compReadDm g z op d i m) s = .next t) ∧
      (∀ (f : ShiftFn) (x : ShiftXop), shiftWrites f d = false →
        ∃ v s1 u u1 t, DmReads s (addrOut s (dagIdx g i)) v s1 ∧ exec (shiftForm f x .always) s1 = .next u ∧
          DregWritten d v u u1 ∧ PostModified (dagIdx g i) (dagIdx g m) u1 t ∧
          exec (.shiftReadDm g f x d i m) s = .next t)) ∧
    (pmReadable s (addrOut s (dagIdx .dag2 i)) →
      (∀ (z : Dest) (op : AluMac), clauseWrites z op d = false →
        ∃ p s1 u t, PmReads s (addrOut s (dagIdx .dag2 i)) p s1 ∧ exec (clauseForm z op) s1 = .next u ∧
          PmLoaded d (dagIdx .dag2 i) (dagIdx .dag2 m) p u t ∧ exec (.compReadPm z op d i m) s = .next t) ∧
      (∀ (f : ShiftFn) (x : ShiftXop), shiftWrites f d = false →
        ∃ p s1 u t, PmReads s (addrOut s (dagIdx .dag2 i)) p s1 ∧ exec (shiftForm f x .always) s1 = .next u ∧
          PmLoaded d (dagIdx .dag2 i) (dagIdx .dag2 m) p u t ∧ exec (.shiftReadPm f x d i m) s = .next t))

/-- O44. compWriteDm, compWritePm, shiftWriteDm, shiftWritePm, where the location can be written: the register as it
was before the instruction (over PX for PM) is stored at the address, no other word changes, and the rest is the
single-function computation and the post-modify of the I register. The address rests on R93 and the post-modify on
R91 (general knowledge, log 4), the open index is a free value (log 12); a write to a device location of PM, which
R86 does not have, is an event and stores nothing (log 15, DEDUCED), and like every PM write is remembered for the
prefetch rule (log 10, DESIGN CHOICE). (46_multifunction.md R400, 46_multifunction.md R403, 46_multifunction.md R411
to R414, 20_memory.md R96) -/
def Obligations.ComputeWithWrite : Prop :=
  ∀ (g : DagSel) (r : DReg) (i m : BitVec 2) (s : State),
    (dmWritable s (addrOut s (dagIdx g i)) →
      (∀ (z : Dest) (op : AluMac),
        ∃ s1 u t, DmWrites s (addrOut s (dagIdx g i)) (dregVal r (activeBank s)) s1 ∧
          exec (clauseForm z op) s1 = .next u ∧ PostModified (dagIdx g i) (dagIdx g m) u t ∧
          exec (.compWriteDm g z op r i m) s = .next t) ∧
      (∀ (f : ShiftFn) (x : ShiftXop),
        ∃ s1 u t, DmWrites s (addrOut s (dagIdx g i)) (dregVal r (activeBank s)) s1 ∧
          exec (shiftForm f x .always) s1 = .next u ∧ PostModified (dagIdx g i) (dagIdx g m) u t ∧
          exec (.shiftWriteDm g f x r i m) s = .next t)) ∧
    (pmWritable s (addrOut s (dagIdx .dag2 i)) →
      (∀ (z : Dest) (op : AluMac),
        ∃ s1 u t, PmWrites s (addrOut s (dagIdx .dag2 i)) (pmWordOf (dregVal r (activeBank s)) s.px) s1 ∧
          exec (clauseForm z op) s1 = .next u ∧ PostModified (dagIdx .dag2 i) (dagIdx .dag2 m) u t ∧
          exec (.compWritePm z op r i m) s = .next t) ∧
      (∀ (f : ShiftFn) (x : ShiftXop),
        ∃ s1 u t, PmWrites s (addrOut s (dagIdx .dag2 i)) (pmWordOf (dregVal r (activeBank s)) s.px) s1 ∧
          exec (shiftForm f x .always) s1 = .next u ∧ PostModified (dagIdx .dag2 i) (dagIdx .dag2 m) u t ∧
          exec (.shiftWritePm f x r i m) s = .next t))

/-- O45. dualRead, compDualRead, where both locations can be read: the PM word is read first, then the DM word, both
at the addresses of the state before; the computation (to AR or MR) is the single-function one; the DM word goes to
the X register, bits 23-8 of the PM word to the Y register, bits 7-0 to PX, and both I registers are post-modified.
Nothing else changes. The address rests on R93 and the post-modify on R91 (general knowledge, log 4), the open index
is a free value (log 12), as is a device value; a device location of PM, which R85 and R86 do not have, gives a
drawn word and an event (log 15, DEDUCED). (46_multifunction.md R415, 46_multifunction.md R416, 20_memory.md R98,
46_multifunction.md R400) -/
def Obligations.DualReads : Prop :=
  ∀ (pd : PmDest) (dd : DmDest) (pi pm di dm : BitVec 2) (s : State),
    pmReadable s (addrOut s (dagIdx .dag2 pi)) → dmReadable s (addrOut s (dagIdx .dag1 di)) →
    (∃ p v s1 s2 t, PmReads s (addrOut s (dagIdx .dag2 pi)) p s1 ∧
      DmReads s1 (addrOut s (dagIdx .dag1 di)) v s2 ∧
      DualLoaded pd dd (dagIdx .dag2 pi) (dagIdx .dag2 pm) (dagIdx .dag1 di) (dagIdx .dag1 dm) p v s2 t ∧
      exec (.dualRead pd dd pi pm di dm) s = .next t) ∧
    (∀ op : AluMac, ∃ p v s1 s2 u t, PmReads s (addrOut s (dagIdx .dag2 pi)) p s1 ∧
      DmReads s1 (addrOut s (dagIdx .dag1 di)) v s2 ∧ exec (clauseForm .result op) s2 = .next u ∧
      DualLoaded pd dd (dagIdx .dag2 pi) (dagIdx .dag2 pm) (dagIdx .dag1 di) (dagIdx .dag1 dm) p v u t ∧
      exec (.compDualRead pd dd op pi pm di dm) s = .next t)

/-- O46. For compMove and shiftMove in every state, and for compReadDm, compReadPm, shiftReadDm and shiftReadPm
where the location can be read: if the computation writes the register the transfer writes, the instruction is the
fault SameDestination of its word. Rests also on the spec's inferences: its own decisions D5, D9, D11. That the
fault comes after the read of the transfer is the order of log 11; the word is that of the code tables of the
configuration (log 3). (46_multifunction.md R402, 60_exceptions.md R431, 92_eei_decisions.md D11) -/
def Obligations.SameDestinationFaults : Prop :=
  ∀ (g : DagSel) (z : Dest) (op : AluMac) (f : ShiftFn) (x : ShiftXop) (d r : DReg) (i m : BitVec 2) (s : State),
    (clauseWrites z op d = true →
      exec (.compMove z (some op) d r) s = .fault (.sameDestination (encodeWith s.cfg.codes (.compMove z (some op) d r))) ∧
      (dmReadable s (addrOut s (dagIdx g i)) →
        exec (.compReadDm g z op d i m) s = .fault (.sameDestination (encodeWith s.cfg.codes (.compReadDm g z op d i m)))) ∧
      (pmReadable s (addrOut s (dagIdx .dag2 i)) →
        exec (.compReadPm z op d i m) s = .fault (.sameDestination (encodeWith s.cfg.codes (.compReadPm z op d i m))))) ∧
    (shiftWrites f d = true →
      exec (.shiftMove f x d r) s = .fault (.sameDestination (encodeWith s.cfg.codes (.shiftMove f x d r))) ∧
      (dmReadable s (addrOut s (dagIdx g i)) →
        exec (.shiftReadDm g f x d i m) s = .fault (.sameDestination (encodeWith s.cfg.codes (.shiftReadDm g f x d i m)))) ∧
      (pmReadable s (addrOut s (dagIdx .dag2 i)) →
        exec (.shiftReadPm f x d i m) s = .fault (.sameDestination (encodeWith s.cfg.codes (.shiftReadPm f x d i m)))))

/-- O47. With no interrupt to take, the processor not idle, the word at PC stored and not just written, no pop
pending and PC at no loop end: the step is exec of the decoded instruction on the state with the requests and FI
sampled; a next state goes on at the target of the transfer it took, else at PC + 1 modulo 2^14, with one more step
counted; a fault or refusal of exec is that of the step. Rests also on the spec's inferences: its own decision D8.
The requests are sampled as in log 7, FI as in log 24; the word is decoded by the code tables of the configuration
(log 3). (44_program_flow.md R335, 20_memory.md R94, 10_state.md R45, 10_state.md R46) -/
def Obligations.StepRunsDecoded : Prop :=
  ∀ (s : State) (w : PmWord) (i : Instr) (pend : List Bool), NoInterrupt s → LatchesNow s pend → Fetches s w →
    decodeWith s.cfg.codes w = .ok i → s.seq.pcPopPending = false → OutsideLoopEnd s →
    step s = onNext (fun t => stepTo (t.seq.transfer.getD (s.seq.pc + 1)) t) (exec i (entered pend s))

/-- O48. At the end address of the current loop, with an instruction allowed there: exec runs with CNTR decremented
for a CE loop. If it takes a transfer, the step goes on at the target and the sequencer pops nothing. If not and the
termination condition is not met on the flags and the counter before the instruction, the step goes on at the
address on top of the PC stack, which is not popped. Rests also on the spec's inferences: what it takes from general
knowledge in R48, R351 (log 4) and its own decisions D10, D27. The requests are sampled as in log 7; what a loop end
allows is log 26. (44_program_flow.md R335, 44_program_flow.md R337, 44_program_flow.md R351, 10_state.md R48,
70_reset_and_hazards.md R482) -/
def Obligations.LoopEndGoesOn : Prop :=
  ∀ (s t : State) (w : PmWord) (i : Instr) (pend : List Bool) (e : LoopEntry) (rest : List LoopEntry),
    NoInterrupt s → LatchesNow s pend → Fetches s w → decodeWith s.cfg.codes w = .ok i → s.seq.pcPopPending = false →
    s.seq.loopStack = e :: rest → e.last = s.seq.pc → AllowedHere i s → exec i (enteredAtEnd e pend s) = .next t →
    (∀ a, t.seq.transfer = some a → step s = .next (stepTo a t)) ∧
    (∀ a more, t.seq.transfer = none → ¬ TermMet e.term s → t.seq.pcStack = a :: more →
      step s = .next (stepTo a t))

/-- O49. At the end address of the current loop, with an instruction allowed there that takes no transfer, and the
termination condition met on the state before: the step pops the loop stack and the PC stack and goes on at PC + 1;
for a CE loop CNTR is popped from the counter stack, and is open where that is empty. Rests also on the spec's
inferences: what it takes from general knowledge in R57, R351, R352 (log 4) and its own decision D18. The requests
are sampled as in log 7; what a loop end allows is log 26. Where the counter stack is empty R352 and D18 call CNTR
unwritten; the model gives it a free value and counts the draw (log 12, and log 1 for leaving D6), and CNTR still
counts as loaded (log 28). (44_program_flow.md R351, 44_program_flow.md R352, 10_state.md R57, 92_eei_decisions.md
D18) -/
def Obligations.LoopExit : Prop :=
  ∀ (s t : State) (w : PmWord) (i : Instr) (pend : List Bool) (e : LoopEntry) (rest : List LoopEntry)
      (a : Addr) (more : List Addr) (more' : List LoopEntry),
    NoInterrupt s → LatchesNow s pend → Fetches s w → decodeWith s.cfg.codes w = .ok i → s.seq.pcPopPending = false →
    s.seq.loopStack = e :: rest → e.last = s.seq.pc → AllowedHere i s → exec i (enteredAtEnd e pend s) = .next t →
    t.seq.transfer = none → TermMet e.term s → t.seq.pcStack = a :: more → t.seq.loopStack = e :: more' →
    (e.term ≠ .ce →
      step s = .next (stepTo (s.seq.pc + 1)
        { t with seq := { t.seq with pcStack := more, loopStack := more' } })) ∧
    (∀ v vs, e.term = .ce → t.seq.cntrStack = v :: vs →
      step s = .next (stepTo (s.seq.pc + 1)
        { t with seq := { t.seq with pcStack := more, loopStack := more', cntr := v, cntrStack := vs } })) ∧
    (e.term = .ce → t.seq.cntrStack = [] → ∃ v,
      step s = .next (stepTo (s.seq.pc + 1)
        (countDraw { t with seq := { t.seq with pcStack := more, loopStack := more', cntr := v } })))

/-- O50. At the end address of the current loop: IDLE, DO UNTIL, the TOPPCSTACK forms and stack control with POP PC
or POP LOOP, and in a CE loop an instruction that reads or writes CNTR itself, make the step the fault
LoopEndRestriction. Rests also on the spec's inferences: its own decisions D5, D9, D27. What a loop end allows is
log 26. (44_program_flow.md R337, 92_eei_decisions.md D27, 60_exceptions.md R431) -/
def Obligations.LoopEndRestrictions : Prop :=
  ∀ (s : State) (w : PmWord) (i : Instr) (e : LoopEntry) (rest : List LoopEntry),
    NoInterrupt s → Fetches s w → decodeWith s.cfg.codes w = .ok i → s.seq.loopStack = e :: rest → e.last = s.seq.pc →
    (neverLast i = true ∨ (e.term = .ce ∧ touchesCntr i = true)) → step s = .fault .loopEndRestriction

/-- O51. With a pop pending, no interrupt to take (or the hold setting), and PC at no loop end: if exec of the
decoded instruction answers a next state with a PC stack that is not empty, the step is that state with the PC stack
popped and no pop pending, going on at the target or at PC + 1. Rests also on the spec's inferences: its own
decisions D16, D26. The requests are sampled as in log 7. (70_reset_and_hazards.md R481, 44_program_flow.md R335,
45_misc.md R374) -/
def Obligations.DelayedPop : Prop :=
  ∀ (s t : State) (w : PmWord) (i : Instr) (pend : List Bool) (a : Addr) (rest : List Addr),
    (NoInterrupt s ∨ s.cfg.topPcPopInt = .hold) → LatchesNow s pend → Fetches s w → decodeWith s.cfg.codes w = .ok i →
    s.seq.pcPopPending = true → OutsideLoopEnd s → exec i (entered pend s) = .next t → t.seq.pcStack = a :: rest →
    step s = .next (stepTo (t.seq.transfer.getD (s.seq.pc + 1))
      { t with seq := { t.seq with pcStack := rest, pcPopPending := false } })

/-- O52. With a pop pending: a taken CALL in each form, a taken RTS or RTI, DO UNTIL, both TOPPCSTACK forms and POP
PC are the fault PcPopHazard; an interrupt to be taken under the fault setting makes the step that fault, and so
does an allowed instruction at a loop end. Rests also on the spec's inferences: its own decisions D9, D21, D26.
Which instructions meet the hazard is log 5, the loop end log 26. (70_reset_and_hazards.md R481, 92_eei_decisions.md
D26, 60_exceptions.md R443) -/
def Obligations.PcPopHazards : Prop :=
  ∀ s : State, s.seq.pcPopPending = true →
    (∀ (c : Cond) (a : Addr) (i : BitVec 2), condHolds c s = true →
      exec (.call a c) s = .fault .pcPopHazard ∧ exec (.callInd i c) s = .fault .pcPopHazard ∧
      exec (.rts c) s = .fault .pcPopHazard ∧ exec (.rti c) s = .fault .pcPopHazard) ∧
    (∀ a, exec (.callFlag a s.ports.fi) s = .fault .pcPopHazard) ∧
    (∀ a t, exec (.doUntil a t) s = .fault .pcPopHazard) ∧
    (∀ r : Reg, r.isTopReg = true →
      exec (.moveFromTop r) s = .fault .pcPopHazard ∧ exec (.moveToTop r) s = .fault .pcPopHazard) ∧
    (∀ lp, exec (.stackControl true lp false .keep) s = .fault .pcPopHazard) ∧
    (∀ k src, Candidate s k src → s.cfg.topPcPopInt = .fault → step s = .fault .pcPopHazard) ∧
    (∀ w i e rest, NoInterrupt s → Fetches s w → decodeWith s.cfg.codes w = .ok i → s.seq.loopStack = e :: rest →
      e.last = s.seq.pc → AllowedHere i s → step s = .fault .pcPopHazard)

/-- O53. A step that takes no interrupt and whose instruction is a PM write (PM(Ia, Mb) = dreg, alone or beside an
ALU, MAC or shifter clause), when it answers a next state, leaves the address written remembered in it: the address
that addrOut gives on the state before. A step whose PC is the remembered address, with no interrupt to take and not
idle, is the fault SelfModifyHazard of it. Rests also on the spec's inferences: its own decisions D5, D9, D20. The
model field that remembers the write is log 10 (DESIGN CHOICE), that a write to a device location of PM is one log
15 (DEDUCED); the address rests on R93 (log 4). (20_memory.md R100, 92_eei_decisions.md D20, 60_exceptions.md R431)
-/
def Obligations.SelfModifyFaults : Prop :=
  ∀ s : State,
    (∀ (w : PmWord) (i : Instr) (j : BitVec 2) (t : State), NoInterrupt s → Fetches s w →
      decodeWith s.cfg.codes w = .ok i → pmWriteIndex i = some j → step s = .next t →
      t.mem.pmWritten = some (addrOut s (dagIdx .dag2 j))) ∧
    (NoInterrupt s → s.int.idle = false → s.mem.pmWritten = some s.seq.pc →
      step s = .fault (.selfModifyHazard s.seq.pc))

/-- O54. With no pop pending and room on the PC and status stacks, the first source of the table that is enabled,
unmasked and pending is taken: its latch is cleared if it is edge-sensitive and is left as sampled if it is not, PC
and the status triple are pushed, IMASK becomes what the configured entryMask says (where none is configured for the
source, 0, or under nesting IMASK without the bits of this and every lower source), idle is left, and the step is
exec of the instruction stored at the vector. ASTAT and MSTAT are unchanged. Rests also on the spec's inferences:
what it takes from general knowledge in R444, R446 (log 4) and its own decisions D9, D19, D21. The requests are
sampled as in log 7; entryMask as a field of the configuration, the width of what it answers and the default R446
are log 13. (60_exceptions.md R443, 60_exceptions.md R444, 60_exceptions.md R446, 10_state.md R55, 10_state.md R58,
10_state.md R62, 10_state.md R63) -/
def Obligations.InterruptTaken : Prop :=
  ∀ (s : State) (k : Nat) (src : IntSource) (pend : List Bool), Candidate s k src →
    (∀ j src', j < k → ¬ Candidate s j src') → LatchesNow s pend → s.seq.pcPopPending = false →
    s.seq.pcStack.length < 16 → s.seq.stsStack.length < s.cfg.stsStackDepth →
    ∃ t : State,
      t = { s with
        int := { s.int with
          irqPending := if sourceIsEdge s.int.icntl src then pend.set k false else pend
          imask := t.int.imask, idle := false }
        seq := { s.seq with
          pc := src.vector, pcStack := s.seq.pc :: s.seq.pcStack
          stsStack := { astat := s.astat, mstat := s.mstat, imask := s.int.imask } :: s.seq.stsStack } } ∧
      (s.cfg.entryMask[k]? = none →
        ∀ b < 16, t.int.imask.getLsbD b = (s.int.icntl.getLsbD 4 && s.int.imask.getLsbD b &&
          !((s.cfg.intTable.drop k).any fun x => x.maskBit == b))) ∧
      (∀ rule, s.cfg.entryMask[k]? = some rule →
        ∀ b < 16, t.int.imask.getLsbD b =
          (decide (b < s.cfg.imaskBits) && (maskOfRule s.int.imask s.int.icntl rule).getLsbD b)) ∧
      ∀ w i, Fetches t w → decodeWith s.cfg.codes w = .ok i → OutsideLoopEnd t →
        step s = onNext (fun u => stepTo (u.seq.transfer.getD (src.vector + 1)) u)
          (exec i (entered t.int.irqPending t))

/-- O55. While idle and with no source enabled, unmasked and pending, a step fetches nothing and changes nothing but
the latches of the sources and the count of steps. Rests also on the spec's inferences: what it takes from general
knowledge in R445 (log 4) and its own decisions D9, D21. The requests are sampled as in log 7; the step counter is a
field of the model (log 12). (44_program_flow.md R360, 60_exceptions.md R443, 60_exceptions.md R445) -/
def Obligations.IdleWaits : Prop :=
  ∀ (s : State) (pend : List Bool), s.int.idle = true → NoInterrupt s → LatchesNow s pend →
    step s = .next { s with
      int := { s.int with irqPending := pend }
      seq := { s.seq with transfer := none }
      steps := s.steps + 1 }

/-- O56. Whatever the step (an instruction, an interrupt, an idle step): the bank that SEC_REG does not select
before it is the same after it, also when the step itself changes SEC_REG. Rests also on the spec's inferences: what
it takes from general knowledge in R25 (log 4). (10_state.md R25) -/
def Obligations.InactiveBankKept : Prop :=
  ∀ s t : State, step s = .next t → (if secReg s then t.primary else t.secondary) = inactiveBank s

/-- O57. For every well-shaped state, if the step answers a next state, that is well shaped: both memories in
canonical form with 14-bit addresses, no stack over its depth, IMASK, ICNTL and every saved IMASK within their
widths and ICNTL bit 3 zero, one latch a source, a pending pop that can be made, and no transfer left. Rests also on
the spec's inferences: what it takes from general knowledge in R57, R441 (log 4) and its own decisions D9, D26. The
canonical form is the model choice of log 8, the widths log 23. (10_state.md R55 to R59, 60_exceptions.md R441,
20_memory.md R80, 20_memory.md R81, 70_reset_and_hazards.md R481) -/
def Obligations.StepKeepsWellShaped : Prop :=
  ∀ s t : State, wellShaped s = true → step s = .next t → wellShaped t = true

/-- O58. Whatever the step: the OPEN parameters, BIASRND among them, are what they were; PSO, LSO, CSO and SSO, once
set, stay set; and the step counter is one greater. Rests also on the spec's inferences: what it takes from general
knowledge in R6 (log 4) and its own decision D9. The step counter is a field of the model (log 12). (00_scope.md R6,
10_state.md R64, 10_state.md R59, 45_misc.md R373) -/
def Obligations.StepKeepsSettings : Prop :=
  ∀ s t : State, step s = .next t →
    t.cfg = s.cfg ∧ t.steps = s.steps + 1 ∧
    (s.seq.pcOvf = true → t.seq.pcOvf = true) ∧ (s.seq.loopOvf = true → t.seq.loopOvf = true) ∧
    (s.seq.cntrOvf = true → t.seq.cntrOvf = true) ∧ (s.seq.stsOvf = true → t.seq.stsOvf = true)

/-- O59. For every configuration and every initial image that fits its memory maps: the state after reset holds the
image in PM and DM, PC is RESET_PC, and the invariant of StepKeepsWellShaped holds. State.reset is that state for
one configuration and the empty image. Rests also on the spec's inferences: what it takes from general knowledge in
R470, R472 (log 4) and its own decisions D7, D8. The zero values of the registers are the model choice of log 1, the
configuration and the empty image of State.reset those of logs 2 and 14, the canonical form that of log 8.
(70_reset_and_hazards.md R470, 70_reset_and_hazards.md R472) -/
def Obligations.ResetWellShaped : Prop :=
  State.reset = State.resetWith Config.adsp2181 Image.empty ∧ wellShaped State.reset = true ∧
  ∀ (cfg : Config) (image : Image), image.fits cfg = true →
    (State.resetWith cfg image).mem.pm = image.pm ∧ (State.resetWith cfg image).mem.dm = image.dm ∧
    (State.resetWith cfg image).seq.pc = cfg.resetPc ∧ wellShaped (State.resetWith cfg image) = true

/-- O60. The three facts of R471, in every configuration and with every initial image: MSTAT = 0, INTS = 1, and LSO,
SSO, CSO, PSO = 0. (R471) -/
def Obligations.ResetValues : Prop :=
  ∀ (cfg : Config) (image : Image),
    (State.resetWith cfg image).mstat = 0#7 ∧ (State.resetWith cfg image).int.ints = true ∧
    (State.resetWith cfg image).seq.loopOvf = false ∧ (State.resetWith cfg image).seq.stsOvf = false ∧
    (State.resetWith cfg image).seq.cntrOvf = false ∧ (State.resetWith cfg image).seq.pcOvf = false
end

