-- ==== Sys2Proof/Laws/Memory.lean ====
section
/-! SUPPORT. The laws of a memory: what a read after a write gives, that a write keeps the canonical form, and that two
memories in canonical form with the same reads are the same data. -/

namespace Sys2Proof.Machine

@[simp] theorem Memory.read_nil {n : Nat} (a : Nat) : Memory.read ([] : Memory n) a = none := rfl

/-- A read gives what was last written at its address, and every other address is left alone. -/
theorem Memory.read_write {n : Nat} (m : Memory n) (a b : Nat) (v : BitVec n) :
    (Memory.write m a v).read b = if b = a then some v else m.read b := by
  induction m with
  | nil => simp [Memory.write, Memory.read]
  | cons e rest ih =>
    obtain ⟨c, w⟩ := e
    simp only [Memory.write]
    split
    · simp [Memory.read]
    · split
      · simp_all [Memory.read]
      · rename_i h1 h2
        simp only [Memory.read, ih]
        by_cases hb : b = c
        · subst hb; simp [Ne.symm h2]
        · simp [hb]

@[simp] theorem Memory.read_write_same {n : Nat} (m : Memory n) (a : Nat) (v : BitVec n) :
    (Memory.write m a v).read a = some v := by simp [Memory.read_write]

theorem Memory.read_write_other {n : Nat} (m : Memory n) {a b : Nat} (v : BitVec n) (h : b ≠ a) :
    (Memory.write m a v).read b = m.read b := by simp [Memory.read_write, h]

/-- A write keeps the addresses rising from a lower bound that its own address respects. -/
theorem Memory.sortedFrom_write {n : Nat} (m : Memory n) (lo a : Nat) (v : BitVec n) (hlo : lo ≤ a)
    (ha : a < 2 ^ 14) (h : Memory.sortedFrom lo m = true) : Memory.sortedFrom lo (Memory.write m a v) = true := by
  induction m generalizing lo with
  | nil => simp [Memory.write, Memory.sortedFrom, hlo]; omega
  | cons e rest ih =>
    obtain ⟨c, w⟩ := e
    simp only [Memory.sortedFrom, Bool.and_eq_true, decide_eq_true_eq] at h
    simp only [Memory.write]
    split
    · rename_i h1
      simp [Memory.sortedFrom, hlo, h.2]; omega
    · split
      · rename_i h1 h2
        subst h2
        simp [Memory.sortedFrom, hlo, h.2]; omega
      · rename_i h1 h2
        simp [Memory.sortedFrom, h.1.1, ih (c + 1) (by omega) h.2]; omega

/-- Every write at a 14-bit address keeps the canonical form. -/
theorem Memory.wf_write {n : Nat} (m : Memory n) (a : Addr) (v : BitVec n) (h : m.wf = true) :
    (Memory.write m a.toNat v).wf = true :=
  Memory.sortedFrom_write m 0 a.toNat v (Nat.zero_le _) a.isLt h

/-- Below its lower bound a memory holds nothing. -/
theorem Memory.read_below {n : Nat} (m : Memory n) (lo a : Nat) (ha : a < lo) (h : Memory.sortedFrom lo m = true) :
    m.read a = none := by
  induction m generalizing lo with
  | nil => rfl
  | cons e rest ih =>
    obtain ⟨c, w⟩ := e
    simp only [Memory.sortedFrom, Bool.and_eq_true, decide_eq_true_eq] at h
    have hne : a ≠ c := by omega
    simp [Memory.read, hne, ih (c + 1) (by omega) h.2]

/-- Equal memories are equal data: two memories in canonical form with the same reads are the same list. -/
theorem Memory.eq_of_read {n : Nat} (m k : Memory n) (lo : Nat) (hm : Memory.sortedFrom lo m = true)
    (hk : Memory.sortedFrom lo k = true) (h : ∀ a, m.read a = k.read a) : m = k := by
  induction m generalizing lo k with
  | nil =>
    cases k with
    | nil => rfl
    | cons e rest => have := h e.1; simp [Memory.read] at this
  | cons e rest ih =>
    obtain ⟨c, w⟩ := e
    cases k with
    | nil => have := h c; simp [Memory.read] at this
    | cons e' rest' =>
      obtain ⟨c', w'⟩ := e'
      simp only [Memory.sortedFrom, Bool.and_eq_true, decide_eq_true_eq] at hm hk
      have hc : c = c' := by
        by_contra hne
        rcases Nat.lt_or_gt_of_ne hne with hlt | hlt
        · have := h c
          simp [Memory.read, hne, Memory.read_below rest' (c' + 1) c (by omega) hk.2] at this
        · have := h c'
          simp [Memory.read, Ne.symm hne, Memory.read_below rest (c + 1) c' (by omega) hm.2] at this
      subst hc
      have hw : w = w' := by have := h c; simpa [Memory.read] using this
      subst hw
      have hrest : rest = rest' := by
        apply ih rest' (c + 1) hm.2 hk.2
        intro a
        by_cases hac : a = c
        · subst hac
          rw [Memory.read_below rest (a + 1) a (by omega) hm.2, Memory.read_below rest' (a + 1) a (by omega) hk.2]
        · have := h a; simpa [Memory.read, hac] using this
      rw [hrest]

/-- The memories of the reset state are in canonical form. -/
theorem reset_memory_wf : State.reset.mem.pm.wf = true ∧ State.reset.mem.dm.wf = true := by decide

end Sys2Proof.Machine
end

