-- ==== Sys2Proof/Laws/State.lean ====
section
/-! SUPPORT. The small lemmas of the state's updates: what each update makes of each field, true by rfl, and the active
register bank under each update. No later proof unfolds an update. -/

namespace Sys2Proof.Machine

/-! `setAstat`. -/

@[simp] theorem setAstat_cfg (v : BitVec 8) (s : State) : (setAstat v s).cfg = s.cfg := rfl
@[simp] theorem setAstat_primary (v : BitVec 8) (s : State) : (setAstat v s).primary = s.primary := rfl
@[simp] theorem setAstat_secondary (v : BitVec 8) (s : State) : (setAstat v s).secondary = s.secondary := rfl
@[simp] theorem setAstat_dag (v : BitVec 8) (s : State) : (setAstat v s).dag = s.dag := rfl
@[simp] theorem setAstat_px (v : BitVec 8) (s : State) : (setAstat v s).px = s.px := rfl
@[simp] theorem setAstat_astat (v : BitVec 8) (s : State) : (setAstat v s).astat = v := rfl
@[simp] theorem setAstat_mstat (v : BitVec 8) (s : State) : (setAstat v s).mstat = s.mstat := rfl
@[simp] theorem setAstat_seq (v : BitVec 8) (s : State) : (setAstat v s).seq = s.seq := rfl
@[simp] theorem setAstat_int (v : BitVec 8) (s : State) : (setAstat v s).int = s.int := rfl
@[simp] theorem setAstat_ports (v : BitVec 8) (s : State) : (setAstat v s).ports = s.ports := rfl
@[simp] theorem setAstat_mem (v : BitVec 8) (s : State) : (setAstat v s).mem = s.mem := rfl
@[simp] theorem setAstat_events (v : BitVec 8) (s : State) : (setAstat v s).events = s.events := rfl
@[simp] theorem setAstat_draws (v : BitVec 8) (s : State) : (setAstat v s).draws = s.draws := rfl
@[simp] theorem setAstat_steps (v : BitVec 8) (s : State) : (setAstat v s).steps = s.steps := rfl
@[simp] theorem activeBank_setAstat (v : BitVec 8) (s : State) : activeBank (setAstat v s) = activeBank s := rfl

/-! `setMstat`. -/

@[simp] theorem setMstat_cfg (v : BitVec 7) (s : State) : (setMstat v s).cfg = s.cfg := rfl
@[simp] theorem setMstat_primary (v : BitVec 7) (s : State) : (setMstat v s).primary = s.primary := rfl
@[simp] theorem setMstat_secondary (v : BitVec 7) (s : State) : (setMstat v s).secondary = s.secondary := rfl
@[simp] theorem setMstat_dag (v : BitVec 7) (s : State) : (setMstat v s).dag = s.dag := rfl
@[simp] theorem setMstat_px (v : BitVec 7) (s : State) : (setMstat v s).px = s.px := rfl
@[simp] theorem setMstat_astat (v : BitVec 7) (s : State) : (setMstat v s).astat = s.astat := rfl
@[simp] theorem setMstat_mstat (v : BitVec 7) (s : State) : (setMstat v s).mstat = v := rfl
@[simp] theorem setMstat_seq (v : BitVec 7) (s : State) : (setMstat v s).seq = s.seq := rfl
@[simp] theorem setMstat_int (v : BitVec 7) (s : State) : (setMstat v s).int = s.int := rfl
@[simp] theorem setMstat_ports (v : BitVec 7) (s : State) : (setMstat v s).ports = s.ports := rfl
@[simp] theorem setMstat_mem (v : BitVec 7) (s : State) : (setMstat v s).mem = s.mem := rfl
@[simp] theorem setMstat_events (v : BitVec 7) (s : State) : (setMstat v s).events = s.events := rfl
@[simp] theorem setMstat_draws (v : BitVec 7) (s : State) : (setMstat v s).draws = s.draws := rfl
@[simp] theorem setMstat_steps (v : BitVec 7) (s : State) : (setMstat v s).steps = s.steps := rfl

/-! `setPx`. -/

@[simp] theorem setPx_cfg (v : BitVec 8) (s : State) : (setPx v s).cfg = s.cfg := rfl
@[simp] theorem setPx_primary (v : BitVec 8) (s : State) : (setPx v s).primary = s.primary := rfl
@[simp] theorem setPx_secondary (v : BitVec 8) (s : State) : (setPx v s).secondary = s.secondary := rfl
@[simp] theorem setPx_dag (v : BitVec 8) (s : State) : (setPx v s).dag = s.dag := rfl
@[simp] theorem setPx_px (v : BitVec 8) (s : State) : (setPx v s).px = v := rfl
@[simp] theorem setPx_astat (v : BitVec 8) (s : State) : (setPx v s).astat = s.astat := rfl
@[simp] theorem setPx_mstat (v : BitVec 8) (s : State) : (setPx v s).mstat = s.mstat := rfl
@[simp] theorem setPx_seq (v : BitVec 8) (s : State) : (setPx v s).seq = s.seq := rfl
@[simp] theorem setPx_int (v : BitVec 8) (s : State) : (setPx v s).int = s.int := rfl
@[simp] theorem setPx_ports (v : BitVec 8) (s : State) : (setPx v s).ports = s.ports := rfl
@[simp] theorem setPx_mem (v : BitVec 8) (s : State) : (setPx v s).mem = s.mem := rfl
@[simp] theorem setPx_events (v : BitVec 8) (s : State) : (setPx v s).events = s.events := rfl
@[simp] theorem setPx_draws (v : BitVec 8) (s : State) : (setPx v s).draws = s.draws := rfl
@[simp] theorem setPx_steps (v : BitVec 8) (s : State) : (setPx v s).steps = s.steps := rfl
@[simp] theorem activeBank_setPx (v : BitVec 8) (s : State) : activeBank (setPx v s) = activeBank s := rfl

/-! `emit`. -/

@[simp] theorem emit_cfg (e : Event) (s : State) : (emit e s).cfg = s.cfg := rfl
@[simp] theorem emit_primary (e : Event) (s : State) : (emit e s).primary = s.primary := rfl
@[simp] theorem emit_secondary (e : Event) (s : State) : (emit e s).secondary = s.secondary := rfl
@[simp] theorem emit_dag (e : Event) (s : State) : (emit e s).dag = s.dag := rfl
@[simp] theorem emit_px (e : Event) (s : State) : (emit e s).px = s.px := rfl
@[simp] theorem emit_astat (e : Event) (s : State) : (emit e s).astat = s.astat := rfl
@[simp] theorem emit_mstat (e : Event) (s : State) : (emit e s).mstat = s.mstat := rfl
@[simp] theorem emit_seq (e : Event) (s : State) : (emit e s).seq = s.seq := rfl
@[simp] theorem emit_int (e : Event) (s : State) : (emit e s).int = s.int := rfl
@[simp] theorem emit_ports (e : Event) (s : State) : (emit e s).ports = s.ports := rfl
@[simp] theorem emit_mem (e : Event) (s : State) : (emit e s).mem = s.mem := rfl
@[simp] theorem emit_events (e : Event) (s : State) : (emit e s).events = s.events ++ [e] := rfl
@[simp] theorem emit_draws (e : Event) (s : State) : (emit e s).draws = s.draws := rfl
@[simp] theorem emit_steps (e : Event) (s : State) : (emit e s).steps = s.steps := rfl
@[simp] theorem activeBank_emit (e : Event) (s : State) : activeBank (emit e s) = activeBank s := rfl

/-! `countDraw`. -/

@[simp] theorem countDraw_cfg (s : State) : (countDraw s).cfg = s.cfg := rfl
@[simp] theorem countDraw_primary (s : State) : (countDraw s).primary = s.primary := rfl
@[simp] theorem countDraw_secondary (s : State) : (countDraw s).secondary = s.secondary := rfl
@[simp] theorem countDraw_dag (s : State) : (countDraw s).dag = s.dag := rfl
@[simp] theorem countDraw_px (s : State) : (countDraw s).px = s.px := rfl
@[simp] theorem countDraw_astat (s : State) : (countDraw s).astat = s.astat := rfl
@[simp] theorem countDraw_mstat (s : State) : (countDraw s).mstat = s.mstat := rfl
@[simp] theorem countDraw_seq (s : State) : (countDraw s).seq = s.seq := rfl
@[simp] theorem countDraw_int (s : State) : (countDraw s).int = s.int := rfl
@[simp] theorem countDraw_ports (s : State) : (countDraw s).ports = s.ports := rfl
@[simp] theorem countDraw_mem (s : State) : (countDraw s).mem = s.mem := rfl
@[simp] theorem countDraw_events (s : State) : (countDraw s).events = s.events := rfl
@[simp] theorem countDraw_draws (s : State) : (countDraw s).draws = s.draws + 1 := rfl
@[simp] theorem countDraw_steps (s : State) : (countDraw s).steps = s.steps := rfl
@[simp] theorem activeBank_countDraw (s : State) : activeBank (countDraw s) = activeBank s := rfl

/-! `setI`. -/

@[simp] theorem setI_cfg (a : DagIdx) (v : Addr) (s : State) : (setI a v s).cfg = s.cfg := rfl
@[simp] theorem setI_primary (a : DagIdx) (v : Addr) (s : State) : (setI a v s).primary = s.primary := rfl
@[simp] theorem setI_secondary (a : DagIdx) (v : Addr) (s : State) : (setI a v s).secondary = s.secondary := rfl
@[simp] theorem setI_dag (a : DagIdx) (v : Addr) (s : State) : (setI a v s).dag = { s.dag with i := s.dag.i.set a v } := rfl
@[simp] theorem setI_px (a : DagIdx) (v : Addr) (s : State) : (setI a v s).px = s.px := rfl
@[simp] theorem setI_astat (a : DagIdx) (v : Addr) (s : State) : (setI a v s).astat = s.astat := rfl
@[simp] theorem setI_mstat (a : DagIdx) (v : Addr) (s : State) : (setI a v s).mstat = s.mstat := rfl
@[simp] theorem setI_seq (a : DagIdx) (v : Addr) (s : State) : (setI a v s).seq = s.seq := rfl
@[simp] theorem setI_int (a : DagIdx) (v : Addr) (s : State) : (setI a v s).int = s.int := rfl
@[simp] theorem setI_ports (a : DagIdx) (v : Addr) (s : State) : (setI a v s).ports = s.ports := rfl
@[simp] theorem setI_mem (a : DagIdx) (v : Addr) (s : State) : (setI a v s).mem = s.mem := rfl
@[simp] theorem setI_events (a : DagIdx) (v : Addr) (s : State) : (setI a v s).events = s.events := rfl
@[simp] theorem setI_draws (a : DagIdx) (v : Addr) (s : State) : (setI a v s).draws = s.draws := rfl
@[simp] theorem setI_steps (a : DagIdx) (v : Addr) (s : State) : (setI a v s).steps = s.steps := rfl
@[simp] theorem activeBank_setI (a : DagIdx) (v : Addr) (s : State) : activeBank (setI a v s) = activeBank s := rfl

/-! `setM`. -/

@[simp] theorem setM_cfg (b : DagIdx) (v : Addr) (s : State) : (setM b v s).cfg = s.cfg := rfl
@[simp] theorem setM_primary (b : DagIdx) (v : Addr) (s : State) : (setM b v s).primary = s.primary := rfl
@[simp] theorem setM_secondary (b : DagIdx) (v : Addr) (s : State) : (setM b v s).secondary = s.secondary := rfl
@[simp] theorem setM_dag (b : DagIdx) (v : Addr) (s : State) : (setM b v s).dag = { s.dag with m := s.dag.m.set b v } := rfl
@[simp] theorem setM_px (b : DagIdx) (v : Addr) (s : State) : (setM b v s).px = s.px := rfl
@[simp] theorem setM_astat (b : DagIdx) (v : Addr) (s : State) : (setM b v s).astat = s.astat := rfl
@[simp] theorem setM_mstat (b : DagIdx) (v : Addr) (s : State) : (setM b v s).mstat = s.mstat := rfl
@[simp] theorem setM_seq (b : DagIdx) (v : Addr) (s : State) : (setM b v s).seq = s.seq := rfl
@[simp] theorem setM_int (b : DagIdx) (v : Addr) (s : State) : (setM b v s).int = s.int := rfl
@[simp] theorem setM_ports (b : DagIdx) (v : Addr) (s : State) : (setM b v s).ports = s.ports := rfl
@[simp] theorem setM_mem (b : DagIdx) (v : Addr) (s : State) : (setM b v s).mem = s.mem := rfl
@[simp] theorem setM_events (b : DagIdx) (v : Addr) (s : State) : (setM b v s).events = s.events := rfl
@[simp] theorem setM_draws (b : DagIdx) (v : Addr) (s : State) : (setM b v s).draws = s.draws := rfl
@[simp] theorem setM_steps (b : DagIdx) (v : Addr) (s : State) : (setM b v s).steps = s.steps := rfl
@[simp] theorem activeBank_setM (b : DagIdx) (v : Addr) (s : State) : activeBank (setM b v s) = activeBank s := rfl

/-! `setL`. -/

@[simp] theorem setL_cfg (a : DagIdx) (v : Addr) (s : State) : (setL a v s).cfg = s.cfg := rfl
@[simp] theorem setL_primary (a : DagIdx) (v : Addr) (s : State) : (setL a v s).primary = s.primary := rfl
@[simp] theorem setL_secondary (a : DagIdx) (v : Addr) (s : State) : (setL a v s).secondary = s.secondary := rfl
@[simp] theorem setL_dag (a : DagIdx) (v : Addr) (s : State) : (setL a v s).dag = { s.dag with l := s.dag.l.set a v } := rfl
@[simp] theorem setL_px (a : DagIdx) (v : Addr) (s : State) : (setL a v s).px = s.px := rfl
@[simp] theorem setL_astat (a : DagIdx) (v : Addr) (s : State) : (setL a v s).astat = s.astat := rfl
@[simp] theorem setL_mstat (a : DagIdx) (v : Addr) (s : State) : (setL a v s).mstat = s.mstat := rfl
@[simp] theorem setL_seq (a : DagIdx) (v : Addr) (s : State) : (setL a v s).seq = s.seq := rfl
@[simp] theorem setL_int (a : DagIdx) (v : Addr) (s : State) : (setL a v s).int = s.int := rfl
@[simp] theorem setL_ports (a : DagIdx) (v : Addr) (s : State) : (setL a v s).ports = s.ports := rfl
@[simp] theorem setL_mem (a : DagIdx) (v : Addr) (s : State) : (setL a v s).mem = s.mem := rfl
@[simp] theorem setL_events (a : DagIdx) (v : Addr) (s : State) : (setL a v s).events = s.events := rfl
@[simp] theorem setL_draws (a : DagIdx) (v : Addr) (s : State) : (setL a v s).draws = s.draws := rfl
@[simp] theorem setL_steps (a : DagIdx) (v : Addr) (s : State) : (setL a v s).steps = s.steps := rfl
@[simp] theorem activeBank_setL (a : DagIdx) (v : Addr) (s : State) : activeBank (setL a v s) = activeBank s := rfl

/-! `setCntr`. -/

@[simp] theorem setCntr_cfg (v : Addr) (s : State) : (setCntr v s).cfg = s.cfg := rfl
@[simp] theorem setCntr_primary (v : Addr) (s : State) : (setCntr v s).primary = s.primary := rfl
@[simp] theorem setCntr_secondary (v : Addr) (s : State) : (setCntr v s).secondary = s.secondary := rfl
@[simp] theorem setCntr_dag (v : Addr) (s : State) : (setCntr v s).dag = s.dag := rfl
@[simp] theorem setCntr_px (v : Addr) (s : State) : (setCntr v s).px = s.px := rfl
@[simp] theorem setCntr_astat (v : Addr) (s : State) : (setCntr v s).astat = s.astat := rfl
@[simp] theorem setCntr_mstat (v : Addr) (s : State) : (setCntr v s).mstat = s.mstat := rfl
@[simp] theorem setCntr_seq (v : Addr) (s : State) : (setCntr v s).seq = { s.seq with cntr := v } := rfl
@[simp] theorem setCntr_int (v : Addr) (s : State) : (setCntr v s).int = s.int := rfl
@[simp] theorem setCntr_ports (v : Addr) (s : State) : (setCntr v s).ports = s.ports := rfl
@[simp] theorem setCntr_mem (v : Addr) (s : State) : (setCntr v s).mem = s.mem := rfl
@[simp] theorem setCntr_events (v : Addr) (s : State) : (setCntr v s).events = s.events := rfl
@[simp] theorem setCntr_draws (v : Addr) (s : State) : (setCntr v s).draws = s.draws := rfl
@[simp] theorem setCntr_steps (v : Addr) (s : State) : (setCntr v s).steps = s.steps := rfl
@[simp] theorem activeBank_setCntr (v : Addr) (s : State) : activeBank (setCntr v s) = activeBank s := rfl

/-! `setPc`. -/

@[simp] theorem setPc_cfg (a : Addr) (s : State) : (setPc a s).cfg = s.cfg := rfl
@[simp] theorem setPc_primary (a : Addr) (s : State) : (setPc a s).primary = s.primary := rfl
@[simp] theorem setPc_secondary (a : Addr) (s : State) : (setPc a s).secondary = s.secondary := rfl
@[simp] theorem setPc_dag (a : Addr) (s : State) : (setPc a s).dag = s.dag := rfl
@[simp] theorem setPc_px (a : Addr) (s : State) : (setPc a s).px = s.px := rfl
@[simp] theorem setPc_astat (a : Addr) (s : State) : (setPc a s).astat = s.astat := rfl
@[simp] theorem setPc_mstat (a : Addr) (s : State) : (setPc a s).mstat = s.mstat := rfl
@[simp] theorem setPc_seq (a : Addr) (s : State) : (setPc a s).seq = { s.seq with pc := a } := rfl
@[simp] theorem setPc_int (a : Addr) (s : State) : (setPc a s).int = s.int := rfl
@[simp] theorem setPc_ports (a : Addr) (s : State) : (setPc a s).ports = s.ports := rfl
@[simp] theorem setPc_mem (a : Addr) (s : State) : (setPc a s).mem = s.mem := rfl
@[simp] theorem setPc_events (a : Addr) (s : State) : (setPc a s).events = s.events := rfl
@[simp] theorem setPc_draws (a : Addr) (s : State) : (setPc a s).draws = s.draws := rfl
@[simp] theorem setPc_steps (a : Addr) (s : State) : (setPc a s).steps = s.steps := rfl
@[simp] theorem activeBank_setPc (a : Addr) (s : State) : activeBank (setPc a s) = activeBank s := rfl

/-! `transferTo`. -/

@[simp] theorem transferTo_cfg (a : Addr) (s : State) : (transferTo a s).cfg = s.cfg := rfl
@[simp] theorem transferTo_primary (a : Addr) (s : State) : (transferTo a s).primary = s.primary := rfl
@[simp] theorem transferTo_secondary (a : Addr) (s : State) : (transferTo a s).secondary = s.secondary := rfl
@[simp] theorem transferTo_dag (a : Addr) (s : State) : (transferTo a s).dag = s.dag := rfl
@[simp] theorem transferTo_px (a : Addr) (s : State) : (transferTo a s).px = s.px := rfl
@[simp] theorem transferTo_astat (a : Addr) (s : State) : (transferTo a s).astat = s.astat := rfl
@[simp] theorem transferTo_mstat (a : Addr) (s : State) : (transferTo a s).mstat = s.mstat := rfl
@[simp] theorem transferTo_seq (a : Addr) (s : State) : (transferTo a s).seq = { s.seq with transfer := some a } := rfl
@[simp] theorem transferTo_int (a : Addr) (s : State) : (transferTo a s).int = s.int := rfl
@[simp] theorem transferTo_ports (a : Addr) (s : State) : (transferTo a s).ports = s.ports := rfl
@[simp] theorem transferTo_mem (a : Addr) (s : State) : (transferTo a s).mem = s.mem := rfl
@[simp] theorem transferTo_events (a : Addr) (s : State) : (transferTo a s).events = s.events := rfl
@[simp] theorem transferTo_draws (a : Addr) (s : State) : (transferTo a s).draws = s.draws := rfl
@[simp] theorem transferTo_steps (a : Addr) (s : State) : (transferTo a s).steps = s.steps := rfl
@[simp] theorem activeBank_transferTo (a : Addr) (s : State) : activeBank (transferTo a s) = activeBank s := rfl

/-! `setInt`. -/

@[simp] theorem setInt_cfg (u : IntUnit) (s : State) : (setInt u s).cfg = s.cfg := rfl
@[simp] theorem setInt_primary (u : IntUnit) (s : State) : (setInt u s).primary = s.primary := rfl
@[simp] theorem setInt_secondary (u : IntUnit) (s : State) : (setInt u s).secondary = s.secondary := rfl
@[simp] theorem setInt_dag (u : IntUnit) (s : State) : (setInt u s).dag = s.dag := rfl
@[simp] theorem setInt_px (u : IntUnit) (s : State) : (setInt u s).px = s.px := rfl
@[simp] theorem setInt_astat (u : IntUnit) (s : State) : (setInt u s).astat = s.astat := rfl
@[simp] theorem setInt_mstat (u : IntUnit) (s : State) : (setInt u s).mstat = s.mstat := rfl
@[simp] theorem setInt_seq (u : IntUnit) (s : State) : (setInt u s).seq = s.seq := rfl
@[simp] theorem setInt_int (u : IntUnit) (s : State) : (setInt u s).int = u := rfl
@[simp] theorem setInt_ports (u : IntUnit) (s : State) : (setInt u s).ports = s.ports := rfl
@[simp] theorem setInt_mem (u : IntUnit) (s : State) : (setInt u s).mem = s.mem := rfl
@[simp] theorem setInt_events (u : IntUnit) (s : State) : (setInt u s).events = s.events := rfl
@[simp] theorem setInt_draws (u : IntUnit) (s : State) : (setInt u s).draws = s.draws := rfl
@[simp] theorem setInt_steps (u : IntUnit) (s : State) : (setInt u s).steps = s.steps := rfl
@[simp] theorem activeBank_setInt (u : IntUnit) (s : State) : activeBank (setInt u s) = activeBank s := rfl

/-! `setPorts`. -/

@[simp] theorem setPorts_cfg (p : Ports) (s : State) : (setPorts p s).cfg = s.cfg := rfl
@[simp] theorem setPorts_primary (p : Ports) (s : State) : (setPorts p s).primary = s.primary := rfl
@[simp] theorem setPorts_secondary (p : Ports) (s : State) : (setPorts p s).secondary = s.secondary := rfl
@[simp] theorem setPorts_dag (p : Ports) (s : State) : (setPorts p s).dag = s.dag := rfl
@[simp] theorem setPorts_px (p : Ports) (s : State) : (setPorts p s).px = s.px := rfl
@[simp] theorem setPorts_astat (p : Ports) (s : State) : (setPorts p s).astat = s.astat := rfl
@[simp] theorem setPorts_mstat (p : Ports) (s : State) : (setPorts p s).mstat = s.mstat := rfl
@[simp] theorem setPorts_seq (p : Ports) (s : State) : (setPorts p s).seq = s.seq := rfl
@[simp] theorem setPorts_int (p : Ports) (s : State) : (setPorts p s).int = s.int := rfl
@[simp] theorem setPorts_ports (p : Ports) (s : State) : (setPorts p s).ports = p := rfl
@[simp] theorem setPorts_mem (p : Ports) (s : State) : (setPorts p s).mem = s.mem := rfl
@[simp] theorem setPorts_events (p : Ports) (s : State) : (setPorts p s).events = s.events := rfl
@[simp] theorem setPorts_draws (p : Ports) (s : State) : (setPorts p s).draws = s.draws := rfl
@[simp] theorem setPorts_steps (p : Ports) (s : State) : (setPorts p s).steps = s.steps := rfl
@[simp] theorem activeBank_setPorts (p : Ports) (s : State) : activeBank (setPorts p s) = activeBank s := rfl

/-! `markPcPop`. -/

@[simp] theorem markPcPop_cfg (s : State) : (markPcPop s).cfg = s.cfg := rfl
@[simp] theorem markPcPop_primary (s : State) : (markPcPop s).primary = s.primary := rfl
@[simp] theorem markPcPop_secondary (s : State) : (markPcPop s).secondary = s.secondary := rfl
@[simp] theorem markPcPop_dag (s : State) : (markPcPop s).dag = s.dag := rfl
@[simp] theorem markPcPop_px (s : State) : (markPcPop s).px = s.px := rfl
@[simp] theorem markPcPop_astat (s : State) : (markPcPop s).astat = s.astat := rfl
@[simp] theorem markPcPop_mstat (s : State) : (markPcPop s).mstat = s.mstat := rfl
@[simp] theorem markPcPop_seq (s : State) : (markPcPop s).seq = { s.seq with pcPopPending := true } := rfl
@[simp] theorem markPcPop_int (s : State) : (markPcPop s).int = s.int := rfl
@[simp] theorem markPcPop_ports (s : State) : (markPcPop s).ports = s.ports := rfl
@[simp] theorem markPcPop_mem (s : State) : (markPcPop s).mem = s.mem := rfl
@[simp] theorem markPcPop_events (s : State) : (markPcPop s).events = s.events := rfl
@[simp] theorem markPcPop_draws (s : State) : (markPcPop s).draws = s.draws := rfl
@[simp] theorem markPcPop_steps (s : State) : (markPcPop s).steps = s.steps := rfl
@[simp] theorem activeBank_markPcPop (s : State) : activeBank (markPcPop s) = activeBank s := rfl

/-! `pushLoop`. -/

@[simp] theorem pushLoop_cfg (a : Addr) (t : Term) (s : State) : (pushLoop a t s).cfg = s.cfg := rfl
@[simp] theorem pushLoop_primary (a : Addr) (t : Term) (s : State) : (pushLoop a t s).primary = s.primary := rfl
@[simp] theorem pushLoop_secondary (a : Addr) (t : Term) (s : State) : (pushLoop a t s).secondary = s.secondary := rfl
@[simp] theorem pushLoop_dag (a : Addr) (t : Term) (s : State) : (pushLoop a t s).dag = s.dag := rfl
@[simp] theorem pushLoop_px (a : Addr) (t : Term) (s : State) : (pushLoop a t s).px = s.px := rfl
@[simp] theorem pushLoop_astat (a : Addr) (t : Term) (s : State) : (pushLoop a t s).astat = s.astat := rfl
@[simp] theorem pushLoop_mstat (a : Addr) (t : Term) (s : State) : (pushLoop a t s).mstat = s.mstat := rfl
@[simp] theorem pushLoop_seq (a : Addr) (t : Term) (s : State) : (pushLoop a t s).seq = { s.seq with
      loopStack := { last := a, term := t } :: s.seq.loopStack, pcStack := returnAddr s :: s.seq.pcStack } := rfl
@[simp] theorem pushLoop_int (a : Addr) (t : Term) (s : State) : (pushLoop a t s).int = s.int := rfl
@[simp] theorem pushLoop_ports (a : Addr) (t : Term) (s : State) : (pushLoop a t s).ports = s.ports := rfl
@[simp] theorem pushLoop_mem (a : Addr) (t : Term) (s : State) : (pushLoop a t s).mem = s.mem := rfl
@[simp] theorem pushLoop_events (a : Addr) (t : Term) (s : State) : (pushLoop a t s).events = s.events := rfl
@[simp] theorem pushLoop_draws (a : Addr) (t : Term) (s : State) : (pushLoop a t s).draws = s.draws := rfl
@[simp] theorem pushLoop_steps (a : Addr) (t : Term) (s : State) : (pushLoop a t s).steps = s.steps := rfl
@[simp] theorem activeBank_pushLoop (a : Addr) (t : Term) (s : State) : activeBank (pushLoop a t s) = activeBank s := rfl

/-! `tick`. -/

@[simp] theorem tick_cfg (s : State) : (tick s).cfg = s.cfg := rfl
@[simp] theorem tick_primary (s : State) : (tick s).primary = s.primary := rfl
@[simp] theorem tick_secondary (s : State) : (tick s).secondary = s.secondary := rfl
@[simp] theorem tick_dag (s : State) : (tick s).dag = s.dag := rfl
@[simp] theorem tick_px (s : State) : (tick s).px = s.px := rfl
@[simp] theorem tick_astat (s : State) : (tick s).astat = s.astat := rfl
@[simp] theorem tick_mstat (s : State) : (tick s).mstat = s.mstat := rfl
@[simp] theorem tick_seq (s : State) : (tick s).seq = { s.seq with transfer := none } := rfl
@[simp] theorem tick_int (s : State) : (tick s).int = s.int := rfl
@[simp] theorem tick_ports (s : State) : (tick s).ports = s.ports := rfl
@[simp] theorem tick_mem (s : State) : (tick s).mem = s.mem := rfl
@[simp] theorem tick_events (s : State) : (tick s).events = s.events := rfl
@[simp] theorem tick_draws (s : State) : (tick s).draws = s.draws := rfl
@[simp] theorem tick_steps (s : State) : (tick s).steps = s.steps + 1 := rfl
@[simp] theorem activeBank_tick (s : State) : activeBank (tick s) = activeBank s := rfl

/-! `setBank`: the active bank is replaced, everything else is kept (R25). -/

@[simp] theorem setBank_cfg (b : Bank) (s : State) : (setBank b s).cfg = s.cfg := by
  unfold setBank; split <;> rfl
@[simp] theorem setBank_dag (b : Bank) (s : State) : (setBank b s).dag = s.dag := by
  unfold setBank; split <;> rfl
@[simp] theorem setBank_px (b : Bank) (s : State) : (setBank b s).px = s.px := by
  unfold setBank; split <;> rfl
@[simp] theorem setBank_astat (b : Bank) (s : State) : (setBank b s).astat = s.astat := by
  unfold setBank; split <;> rfl
@[simp] theorem setBank_mstat (b : Bank) (s : State) : (setBank b s).mstat = s.mstat := by
  unfold setBank; split <;> rfl
@[simp] theorem setBank_seq (b : Bank) (s : State) : (setBank b s).seq = s.seq := by
  unfold setBank; split <;> rfl
@[simp] theorem setBank_int (b : Bank) (s : State) : (setBank b s).int = s.int := by
  unfold setBank; split <;> rfl
@[simp] theorem setBank_ports (b : Bank) (s : State) : (setBank b s).ports = s.ports := by
  unfold setBank; split <;> rfl
@[simp] theorem setBank_mem (b : Bank) (s : State) : (setBank b s).mem = s.mem := by
  unfold setBank; split <;> rfl
@[simp] theorem setBank_events (b : Bank) (s : State) : (setBank b s).events = s.events := by
  unfold setBank; split <;> rfl
@[simp] theorem setBank_draws (b : Bank) (s : State) : (setBank b s).draws = s.draws := by
  unfold setBank; split <;> rfl
@[simp] theorem setBank_steps (b : Bank) (s : State) : (setBank b s).steps = s.steps := by
  unfold setBank; split <;> rfl

@[simp] theorem secReg_setBank (b : Bank) (s : State) : secReg (setBank b s) = secReg s := by
  simp only [secReg, setBank_mstat]

@[simp] theorem activeBank_setBank (b : Bank) (s : State) : activeBank (setBank b s) = b := by
  unfold activeBank; rw [secReg_setBank]; cases h : secReg s <;> simp [setBank, h]

/-- The bank that MSTAT.SEC_REG does not select (R25). -/
def otherBank (s : State) : Bank := if secReg s then s.primary else s.secondary

@[simp] theorem otherBank_setBank (b : Bank) (s : State) : otherBank (setBank b s) = otherBank s := by
  unfold otherBank; rw [secReg_setBank]; cases h : secReg s <;> simp [setBank, h]

@[simp] theorem setBank_activeBank (s : State) : setBank (activeBank s) s = s := by
  cases h : secReg s <;> simp [setBank, activeBank, h]

@[simp] theorem setBank_setBank (b c : Bank) (s : State) : setBank c (setBank b s) = setBank c s := by
  unfold setBank; cases h : secReg s <;> simp_all [secReg]

/-! The answer of a result. -/

@[simp] theorem answer_ok (s : State) : answer (.ok s) = .next s := rfl
@[simp] theorem answer_error (f : Fault) : answer (.error f) = .fault f := rfl

/-- A result answers a next state exactly when it is that state. -/
theorem answer_eq_next {r : Result State} {t : State} : answer r = .next t ↔ r = .ok t := by
  cases r <;> simp [answer]

/-- A result answers a fault exactly when it is that fault. -/
theorem answer_eq_fault {r : Result State} {f : Fault} : answer r = .fault f ↔ r = .error f := by
  cases r <;> simp [answer]

/-- No result answers a refusal. -/
theorem answer_ne_refused (r : Result State) (x : Refusal) : answer r ≠ .refused x := by
  cases r <;> simp [answer]

@[simp] theorem result_bind_ok {α β : Type} (a : α) (f : α → Result β) : ((.ok a : Result α) >>= f) = f a := rfl
@[simp] theorem result_bind_error {α β : Type} (e : Fault) (f : α → Result β) :
    ((.error e : Result α) >>= f) = .error e := rfl

/-- A sequence of two operations gives a value exactly when both do. -/
theorem result_bind_eq_ok {α β : Type} {x : Result α} {f : α → Result β} {b : β} :
    x >>= f = .ok b ↔ ∃ a, x = .ok a ∧ f a = .ok b := by
  cases x <;> simp [Bind.bind, Except.bind]

end Sys2Proof.Machine
end

