-- ==== Sys2Proof/Laws/Ops.lean ====
section
/-! SUPPORT. One lemma for each shared operation that says everything it can do: if it answers a value, then one of
these cases holds; with it the conditions under which it answers. Later proofs cite these and do not unfold the
operation. -/

namespace Sys2Proof.Machine

/-! Conditions. -/

theorem afterCond_notCe (s : State) : afterCond .notCe s = setCntr (cntrDown s) s := rfl

theorem afterCond_other {c : Cond} (h : c ≠ .notCe) (s : State) : afterCond c s = s := by simp [afterCond, h]

theorem afterTerm_ce (s : State) : afterTerm .ce s = setCntr (cntrDown s) s := rfl

theorem afterTerm_other {t : Term} (h : t ≠ .ce) (s : State) : afterTerm t s = s := by simp [afterTerm, h]

@[simp] theorem condHolds_always (s : State) : condHolds .always s = true := rfl
@[simp] theorem afterCond_always (s : State) : afterCond .always s = s := rfl
@[simp] theorem activeBank_afterCond (c : Cond) (s : State) : activeBank (afterCond c s) = activeBank s := by
  unfold afterCond; split <;> simp
@[simp] theorem afterCond_astat (c : Cond) (s : State) : (afterCond c s).astat = s.astat := by
  unfold afterCond; split <;> simp
@[simp] theorem afterCond_mstat (c : Cond) (s : State) : (afterCond c s).mstat = s.mstat := by
  unfold afterCond; split <;> simp
@[simp] theorem afterCond_cfg (c : Cond) (s : State) : (afterCond c s).cfg = s.cfg := by
  unfold afterCond; split <;> simp
@[simp] theorem afterCond_mem (c : Cond) (s : State) : (afterCond c s).mem = s.mem := by
  unfold afterCond; split <;> simp

theorem ifCond_true {c : Cond} {s : State} (op : State → Result State) (h : condHolds c s = true) :
    ifCond c op s = op (afterCond c s) := by simp [ifCond, h]

theorem ifCond_false {c : Cond} {s : State} (op : State → Result State) (h : condHolds c s = false) :
    ifCond c op s = .ok (afterCond c s) := by simp [ifCond, h]

@[simp] theorem ifCond_always (op : State → Result State) (s : State) : ifCond .always op s = op s := rfl

/-- A conditional operation either runs on the state after the condition, or leaves that state. -/
theorem ifCond_eq_ok {c : Cond} {op : State → Result State} {s t : State} :
    ifCond c op s = .ok t ↔
      (condHolds c s = true ∧ op (afterCond c s) = .ok t) ∨ (condHolds c s = false ∧ t = afterCond c s) := by
  cases h : condHolds c s <;> simp [ifCond, h, eq_comm]

theorem needsExt_of {w : PmWord} {s : State} (op : State → Answer) (h : s.cfg.member.hasExt = true) :
    needsExt w op s = op s := by simp [needsExt, h]

theorem needsExt_without {w : PmWord} {s : State} (op : State → Answer) (h : s.cfg.member.hasExt = false) :
    needsExt w op s = .fault (.unusedEncoding w) := by simp [needsExt, h]

/-! Memory access. -/

/-- A data memory read gives the stored word and leaves the state, or, at a device, draws and notes an event. -/
theorem readDm_eq_ok {a : Addr} {s t : State} {v : Word} :
    readDm a s = .ok (v, t) ↔
      ((regionKind s.cfg.dmMap a.toNat = some .ram ∨ regionKind s.cfg.dmMap a.toNat = some .rom) ∧
        s.mem.dm.read a.toNat = some v ∧ t = s) ∨
      (regionKind s.cfg.dmMap a.toNat = some .device ∧ v = Config.dmInput s.draws a ∧
        t = emit (.dmRead a v) (countDraw s)) := by
  unfold readDm
  cases regionKind s.cfg.dmMap a.toNat with
  | none => simp
  | some k =>
    cases k <;> cases s.mem.dm.read a.toNat <;> simp [eq_comm] <;> grind

/-- A program memory read, likewise. -/
theorem readPm_eq_ok {a : Addr} {s t : State} {v : PmWord} :
    readPm a s = .ok (v, t) ↔
      ((regionKind s.cfg.pmMap a.toNat = some .ram ∨ regionKind s.cfg.pmMap a.toNat = some .rom) ∧
        s.mem.pm.read a.toNat = some v ∧ t = s) ∨
      (regionKind s.cfg.pmMap a.toNat = some .device ∧ v = Config.pmInput s.draws a ∧
        t = emit (.pmRead a v) (countDraw s)) := by
  unfold readPm
  cases regionKind s.cfg.pmMap a.toNat with
  | none => simp
  | some k =>
    cases k <;> cases s.mem.pm.read a.toNat <;> simp [eq_comm] <;> grind

/-- A data memory write stores the word, or, at a device, notes an event. -/
theorem writeDm_eq_ok {a : Addr} {v : Word} {s t : State} :
    writeDm a v s = .ok t ↔
      (regionKind s.cfg.dmMap a.toNat = some .ram ∧
        t = { s with mem := { s.mem with dm := s.mem.dm.write a.toNat v } }) ∨
      (regionKind s.cfg.dmMap a.toNat = some .device ∧ t = emit (.dmWrite a v) s) := by
  unfold writeDm
  cases regionKind s.cfg.dmMap a.toNat with
  | none => simp
  | some k => cases k <;> simp [eq_comm]

/-- A program memory write stores the word, or notes an event, and remembers the address. -/
theorem writePm_eq_ok {a : Addr} {v : PmWord} {s t : State} :
    writePm a v s = .ok t ↔
      (regionKind s.cfg.pmMap a.toNat = some .ram ∧
        t = { s with mem := { s.mem with pm := s.mem.pm.write a.toNat v, pmWritten := some a } }) ∨
      (regionKind s.cfg.pmMap a.toNat = some .device ∧
        t = emit (.pmWrite a v) { s with mem := { s.mem with pmWritten := some a } }) := by
  unfold writePm
  cases regionKind s.cfg.pmMap a.toNat with
  | none => simp
  | some k => cases k <;> simp [eq_comm]

theorem readIoSpace_eq_ok {a : IoAddr} {s t : State} {v : Word} :
    readIoSpace a s = .ok (v, t) ↔
      (regionKind s.cfg.ioMap a.toNat).isSome = true ∧ v = Config.ioInput s.draws a ∧
        t = emit (.ioRead a v) (countDraw s) := by
  unfold readIoSpace
  cases regionKind s.cfg.ioMap a.toNat
  · simp
  · simp [eq_comm]; grind

theorem writeIoSpace_eq_ok {a : IoAddr} {v : Word} {s t : State} :
    writeIoSpace a v s = .ok t ↔
      (regionKind s.cfg.ioMap a.toNat).isSome = true ∧ t = emit (.ioWrite a v) s := by
  unfold writeIoSpace
  cases regionKind s.cfg.ioMap a.toNat <;> simp [eq_comm]

/-! Stacks. -/

theorem guardPcStack_eq_ok {s : State} {u : Unit} : guardPcStack s = .ok u ↔ s.seq.pcPopPending = false := by
  unfold guardPcStack; cases s.seq.pcPopPending <;> simp

theorem pushPc_eq_ok {a : Addr} {s t : State} :
    pushPc a s = .ok t ↔
      s.seq.pcStack.length < pcStackDepth ∧ t = { s with seq := { s.seq with pcStack := a :: s.seq.pcStack } } := by
  unfold pushPc; split <;> simp [eq_comm] <;> omega

theorem popPc_eq_ok {a : Addr} {s t : State} :
    popPc s = .ok (a, t) ↔
      ∃ rest, s.seq.pcStack = a :: rest ∧ t = { s with seq := { s.seq with pcStack := rest } } := by
  unfold popPc; split <;> simp_all [eq_comm]

theorem topPc_eq_ok {a : Addr} {s : State} : topPc s = .ok a ↔ ∃ rest, s.seq.pcStack = a :: rest := by
  unfold topPc; split <;> simp_all [eq_comm]

theorem popLoop_eq_ok {e : LoopEntry} {s t : State} :
    popLoop s = .ok (e, t) ↔
      ∃ rest, s.seq.loopStack = e :: rest ∧ t = { s with seq := { s.seq with loopStack := rest } } := by
  unfold popLoop; split <;> simp_all [eq_comm]

theorem pushCntr_eq_ok {s t : State} :
    pushCntr s = .ok t ↔
      s.seq.cntrStack.length < s.cfg.cntrStackDepth ∧
        t = { s with seq := { s.seq with cntrStack := s.seq.cntr :: s.seq.cntrStack } } := by
  unfold pushCntr; split <;> simp [eq_comm] <;> omega

theorem popCntr_eq_ok {s t : State} :
    popCntr s = .ok t ↔
      ∃ v rest, s.seq.cntrStack = v :: rest ∧ t = { s with seq := { s.seq with cntr := v, cntrStack := rest } } := by
  unfold popCntr; split <;> simp_all [eq_comm]

theorem pushSts_eq_ok {s t : State} :
    pushSts s = .ok t ↔
      s.seq.stsStack.length < s.cfg.stsStackDepth ∧
        t = { s with seq := { s.seq with
              stsStack := { astat := s.astat, mstat := s.mstat, imask := s.int.imask } :: s.seq.stsStack } } := by
  unfold pushSts; split <;> simp [eq_comm] <;> omega

theorem popSts_eq_ok {s t : State} :
    popSts s = .ok t ↔
      ∃ e rest, s.seq.stsStack = e :: rest ∧
        t = { s with astat := e.astat, mstat := e.mstat, int := { s.int with imask := e.imask },
                     seq := { s.seq with stsStack := rest } } := by
  unfold popSts; split <;> simp_all [eq_comm]

/-- A load of CNTR pushes the old value unless this is the first load and the first load does not push. -/
theorem loadCntr_eq_ok {v : Addr} {s t : State} :
    loadCntr v s = .ok t ↔
      ((s.cfg.cntrFirstLoadPushes || s.seq.cntrLoaded) = true ∧
        s.seq.cntrStack.length < s.cfg.cntrStackDepth ∧
        t = { s with seq := { s.seq with
              cntr := v, cntrLoaded := true, cntrStack := s.seq.cntr :: s.seq.cntrStack } }) ∨
      ((s.cfg.cntrFirstLoadPushes || s.seq.cntrLoaded) = false ∧
        t = { s with seq := { s.seq with cntr := v, cntrLoaded := true } }) := by
  unfold loadCntr
  cases h : (s.cfg.cntrFirstLoadPushes || s.seq.cntrLoaded)
  · simp [eq_comm]
  · simp only [if_true, result_bind_eq_ok, pushCntr_eq_ok]
    constructor
    · rintro ⟨u, ⟨hl, rfl⟩, ht⟩; cases ht; exact .inl ⟨trivial, hl, rfl⟩
    · rintro (⟨-, hl, rfl⟩ | ⟨hf, -⟩)
      · exact ⟨_, ⟨hl, rfl⟩, rfl⟩
      · cases hf

/-! Interrupt entry and return. -/

theorem lowBits_getLsbD (n k : Nat) (v : Word) (hk : k < 16) :
    (lowBits n v).getLsbD k = (decide (k < n) && v.getLsbD k) := by
  rw [lowBits, BitVec.getLsbD_ofNat, Nat.testBit_mod_two_pow]
  simp [hk, BitVec.getLsbD]

/-- One more low bit of a word. -/
theorem lowBits_succ (n : Nat) (v : Word) :
    lowBits (n + 1) v = if v.getLsbD n then lowBits n v ||| 1#16 <<< n else lowBits n v := by
  apply BitVec.eq_of_getLsbD_eq
  intro k hk
  have hor : (lowBits n v ||| 1#16 <<< n).getLsbD k = ((decide (k < n) && v.getLsbD k) || decide (k = n)) := by
    rw [BitVec.getLsbD_or, lowBits_getLsbD n k v hk, BitVec.getLsbD_shiftLeft, BitVec.getLsbD_one]
    congr 1
    simp only [hk, decide_true, Bool.true_and, decide_eq_decide, ← Bool.decide_and, ← decide_not]
    omega
  rw [lowBits_getLsbD _ k v hk]
  split <;> rename_i hv
  · rw [hor]
    by_cases h : k = n
    · subst h; simp [hv]
    · simp [h, show k < n + 1 ↔ k < n by omega]
  · rw [lowBits_getLsbD n k v hk]
    by_cases h : k = n
    · subst h; simp [hv]
    · simp [show k < n + 1 ↔ k < n by omega]

theorem lowBits_width (v : Word) : lowBits 16 v = v := by
  simp [lowBits, Nat.mod_eq_of_lt v.isLt]

/-- A choice of rules by the low bits of IMASK is a rule. -/
theorem exists_rule_byImask (n : Nat) (R : Word → MaskRule) :
    ∃ r, ∀ imask icntl, maskOfRule imask icntl r = maskOfRule imask icntl (R (lowBits n imask)) := by
  induction n generalizing R with
  | zero => exact ⟨R 0, fun _ _ => by simp [lowBits, Nat.mod_one]⟩
  | succ n ih =>
    obtain ⟨yes, hy⟩ := ih fun w => R (w ||| 1#16 <<< n)
    obtain ⟨no, hn⟩ := ih R
    refine ⟨.ifImask n yes no, fun imask icntl => ?_⟩
    rw [lowBits_succ, maskOfRule]
    split <;> simp only [hy, hn]

/-- A choice of rules by the low bits of ICNTL is a rule. -/
theorem exists_rule_byIcntl (n : Nat) (R : Word → MaskRule) :
    ∃ r, ∀ imask icntl, maskOfRule imask icntl r = maskOfRule imask icntl (R (lowBits n icntl)) := by
  induction n generalizing R with
  | zero => exact ⟨R 0, fun _ _ => by simp [lowBits, Nat.mod_one]⟩
  | succ n ih =>
    obtain ⟨yes, hy⟩ := ih fun w => R (w ||| 1#16 <<< n)
    obtain ⟨no, hn⟩ := ih R
    refine ⟨.ifIcntl n yes no, fun imask icntl => ?_⟩
    rw [lowBits_succ, maskOfRule]
    split <;> simp only [hy, hn]

/-- Every function of IMASK and ICNTL is a `MaskRule`. -/
theorem exists_maskRule (f : Word → Word → Word) :
    ∃ r, ∀ imask icntl, maskOfRule imask icntl r = f imask icntl := by
  choose byIcntl h using fun m => exists_rule_byIcntl 16 fun c => .leaf 0 (f m c)
  obtain ⟨r, hr⟩ := exists_rule_byImask 16 byIcntl
  exact ⟨r, fun imask icntl => by rw [hr, h, lowBits_width, lowBits_width]; simp [maskOfRule]⟩

/-- The parameter of R444 in full: for every function of the source, IMASK and ICNTL some configuration, otherwise as
given, has it as its `entryMask` for every source of its table, in `IMASK_BITS` bits. -/
theorem exists_config_entryMask (cfg : Config) (f : Nat → Word → Word → Word) :
    ∃ rules, ∀ k < cfg.intTable.length, ∀ imask icntl,
      Machine.entryMask { cfg with entryMask := rules } k imask icntl = lowBits cfg.imaskBits (f k imask icntl) := by
  choose rule h using fun k => exists_maskRule (f k)
  refine ⟨(List.range cfg.intTable.length).map rule, fun k hk imask icntl => ?_⟩
  simp [Machine.entryMask, hk, h]

/-- IMASK with the bits of some sources cleared, bit by bit. -/
theorem clearMaskBits_getLsbD (srcs : List IntSource) (m : Word) (b : Nat) (hb : b < 16) :
    (clearMaskBits m srcs).getLsbD b = (m.getLsbD b && !(srcs.any fun x => x.maskBit == b)) := by
  unfold clearMaskBits
  induction srcs generalizing m with
  | nil => simp
  | cons x rest ih =>
    rw [List.foldl_cons, ih]
    have hbit : (1#16 <<< x.maskBit).getLsbD b = (x.maskBit == b) := by
      rw [BitVec.getLsbD_shiftLeft, BitVec.getLsbD_one, Bool.eq_iff_iff]
      simp [hb]
      omega
    rw [BitVec.getLsbD_and, BitVec.getLsbD_not, hbit]
    simp [hb, Bool.and_assoc]

theorem entryMask_none {cfg : Config} {k : Nat} (h : cfg.entryMask[k]? = none) (imask icntl : Word) :
    entryMask cfg k imask icntl = nestingMask cfg k imask icntl := by simp [entryMask, h]

theorem entryMask_some {cfg : Config} {k : Nat} {rule : MaskRule} (h : cfg.entryMask[k]? = some rule)
    (imask icntl : Word) :
    entryMask cfg k imask icntl = lowBits cfg.imaskBits (maskOfRule imask icntl rule) := by simp [entryMask, h]

@[simp] theorem latchesAfterEntry_length (icntl : Word) (k : Nat) (src : IntSource) (pend : List Bool) :
    (latchesAfterEntry icntl k src pend).length = pend.length := by
  unfold latchesAfterEntry; split <;> simp

theorem latchesAfterEntry_edge {icntl : Word} {src : IntSource} (h : sourceIsEdge icntl src = true) (k : Nat)
    (pend : List Bool) : latchesAfterEntry icntl k src pend = pend.set k false := by simp [latchesAfterEntry, h]

theorem latchesAfterEntry_level {icntl : Word} {src : IntSource} (h : sourceIsEdge icntl src = false) (k : Nat)
    (pend : List Bool) : latchesAfterEntry icntl k src pend = pend := by simp [latchesAfterEntry, h]

/-- Taking an interrupt: both stacks had room, and the state is the one R443 gives. -/
theorem takeInterrupt_eq_ok {k : Nat} {src : IntSource} {s t : State} :
    takeInterrupt k src s = .ok t ↔
      s.seq.pcStack.length < pcStackDepth ∧ s.seq.stsStack.length < s.cfg.stsStackDepth ∧
      t = { s with
            seq := { s.seq with
              pc := src.vector
              pcStack := s.seq.pc :: s.seq.pcStack
              stsStack := { astat := s.astat, mstat := s.mstat, imask := s.int.imask } :: s.seq.stsStack }
            int := { s.int with
              irqPending := latchesAfterEntry s.int.icntl k src s.int.irqPending
              imask := entryMask s.cfg k s.int.imask s.int.icntl
              idle := false } } := by
  unfold takeInterrupt
  simp only [result_bind_eq_ok, pushPc_eq_ok, pushSts_eq_ok]
  constructor
  · rintro ⟨u, ⟨h1, rfl⟩, w, ⟨h2, rfl⟩, h3⟩
    cases h3
    exact ⟨h1, h2, rfl⟩
  · rintro ⟨h1, h2, rfl⟩
    exact ⟨_, ⟨h1, rfl⟩, _, ⟨h2, rfl⟩, rfl⟩

/-- Return from interrupt: no pop is pending, neither stack is empty, and the state is the one R341 gives. -/
theorem returnFromInterrupt_eq_ok {s t : State} :
    returnFromInterrupt s = .ok t ↔
      s.seq.pcPopPending = false ∧ ∃ a rest e rest', s.seq.pcStack = a :: rest ∧ s.seq.stsStack = e :: rest' ∧
      t = { s with
            astat := e.astat, mstat := e.mstat, int := { s.int with imask := e.imask }
            seq := { s.seq with pcStack := rest, stsStack := rest', transfer := some a } } := by
  unfold returnFromInterrupt
  simp only [result_bind_eq_ok, guardPcStack_eq_ok, popSts_eq_ok, Prod.exists, popPc_eq_ok]
  constructor
  · rintro ⟨-, hp, a, u, ⟨rest, h1, rfl⟩, w, ⟨e, rest', h2, rfl⟩, h3⟩
    cases h3
    exact ⟨hp, a, rest, e, rest', h1, h2, rfl⟩
  · rintro ⟨hp, a, rest, e, rest', h1, h2, rfl⟩
    exact ⟨(), hp, a, _, ⟨rest, h1, rfl⟩, _, ⟨e, rest', h2, rfl⟩, rfl⟩

/-! Address generators. -/

/-- After a post-modify only I register `a` and, where the new value is free, the draw counter can differ. -/
theorem postModify_eq (a b : DagIdx) (s : State) :
    postModify a b s =
      if modifyDefined s.dag.i[a] s.dag.m[b] s.dag.l[a] then
        setI a (modifyIndex s.dag.i[a] s.dag.m[b] s.dag.l[a]) s
      else setI a (Config.freeIndex s.draws) (countDraw s) := rfl

/-- Linear addressing is always defined, and adds modulo 2^14 (R91). -/
theorem postModify_linear {a b : DagIdx} {s : State} (h : s.dag.l[a] = 0) :
    postModify a b s = setI a (s.dag.i[a] + s.dag.m[b]) s := by
  simp [postModify, modifyDefined, modifyIndex, h]

/-- The exponent of a buffer length: the least `n` with `2^n` at least the length (R91). -/
theorem bufferBits_spec (len : Nat) (h : len ≤ 2 ^ 14) :
    len ≤ 2 ^ bufferBits len ∧ ∀ n < bufferBits len, 2 ^ n < len := by
  unfold bufferBits
  cases hf : (List.range 15).find? fun n => decide (len ≤ 2 ^ n) with
  | none =>
    have := List.find?_eq_none.mp hf 14 (by simp)
    simp at this; omega
  | some n =>
    have hn := List.find?_range_eq_some.mp hf
    exact ⟨by simpa using hn.1, fun m hm => by simpa using hn.2.2 m hm⟩

end Sys2Proof.Machine
end

