-- ==== Sys2Proof/Laws/Sequencer.lean ====
section
/-! SUPPORT. The sequencer's parts in the words of the statements: the sampled latches, the interrupt to be taken, the
fetch, the state an instruction begins on, and the end of a step. -/

namespace Sys2Proof.Machine

open Claims

theorem headD_tail {α : Type} (d : α) (l : List α) (j : Nat) : (l.tail)[j]?.getD d = l[j + 1]?.getD d := by
  cases l <;> simp

theorem headD_eq_getD {α : Type} (d : α) (l : List α) : l.headD d = l[0]?.getD d := by
  cases l <;> simp

/-- The value of source number `k + j`. -/
theorem mapSources_getElem? (f : Nat → IntSource → Bool → Bool) (k : Nat) (srcs : List IntSource)
    (latches : List Bool) (j : Nat) :
    (mapSources f k srcs latches)[j]? = srcs[j]?.map fun src => f (k + j) src (latches[j]?.getD false) := by
  induction srcs generalizing k latches j with
  | nil => simp [mapSources]
  | cons src rest ih =>
    cases j with
    | zero => simp [mapSources, List.head?_eq_getElem?]
    | succ j => simp [mapSources, ih, Nat.add_assoc, Nat.add_comm 1 j]

@[simp] theorem mapSources_length (f : Nat → IntSource → Bool → Bool) (k : Nat) (srcs : List IntSource)
    (latches : List Bool) : (mapSources f k srcs latches).length = srcs.length := by
  induction srcs generalizing k latches with
  | nil => rfl
  | cons src rest ih => simp [mapSources, ih]

/-- The sampled latch in the words of the statements. -/
theorem sampledLatch_eq_latchNow (s : State) (k : Nat) (src : IntSource) :
    sampledLatch s k src (s.int.irqPending[k]?.getD false) = latchNow s k src := by
  show (if sourceIsEdge s.int.icntl src then s.int.irqPending[k]?.getD false || asksNow s k src
    else s.int.irqPending[k]?.getD false) = _
  unfold latchNow
  cases sourceIsEdge s.int.icntl src <;> simp

/-- `LatchesNow` names the latches `sampleRequests` leaves. -/
theorem latchesNow_iff (s : State) (pend : List Bool) :
    LatchesNow s pend ↔ pend = mapSources (sampledLatch s) 0 s.cfg.intTable s.int.irqPending := by
  constructor
  · rintro ⟨hlen, h⟩
    apply List.ext_getElem?
    intro j
    rw [mapSources_getElem?]
    cases hj : s.cfg.intTable[j]? with
    | none =>
      simp only [Option.map_none, List.getElem?_eq_none_iff] at hj ⊢
      omega
    | some src => simp [h j src hj, sampledLatch_eq_latchNow]
  · rintro rfl
    refine ⟨by simp, fun k src h => ?_⟩
    simp [mapSources_getElem?, h, sampledLatch_eq_latchNow]

/-- No candidate from number `k` on. -/
theorem firstCandidate_eq_none (mask : Word) (k : Nat) (srcs : List IntSource) (pend : List Bool) :
    firstCandidate mask k srcs pend = none ↔
      ∀ (j : Nat) (src : IntSource), srcs[j]? = some src →
        ¬ (mask.getLsbD src.maskBit = true ∧ pend[j]?.getD false = true) := by
  induction srcs generalizing k pend with
  | nil => simp [firstCandidate]
  | cons src rest ih =>
    simp only [firstCandidate]
    split
    · rename_i h
      simp only [Bool.and_eq_true, headD_eq_getD] at h
      simp only [reduceCtorEq, false_iff]
      exact fun hall => hall 0 src (by simp) h
    · rename_i h
      simp only [Bool.and_eq_true, headD_eq_getD] at h
      rw [ih]
      constructor
      · intro hr j
        cases j with
        | zero => intro x hx; simp at hx; subst hx; exact h
        | succ j => intro x hx; simpa [headD_tail] using hr j x (by simpa using hx)
      · intro hr j x hx
        simpa [headD_tail] using hr (j + 1) x (by simpa using hx)

/-- The first candidate from number `k` on. -/
theorem firstCandidate_eq_some (mask : Word) (k j : Nat) (src : IntSource) (srcs : List IntSource) (pend : List Bool)
    (hj : srcs[j]? = some src) (hm : mask.getLsbD src.maskBit = true) (hp : pend[j]?.getD false = true)
    (hbefore : ∀ (i : Nat) (x : IntSource), i < j → srcs[i]? = some x →
      ¬ (mask.getLsbD x.maskBit = true ∧ pend[i]?.getD false = true)) :
    firstCandidate mask k srcs pend = some (k + j, src) := by
  induction srcs generalizing k j pend with
  | nil => simp at hj
  | cons y rest ih =>
    simp only [firstCandidate]
    cases j with
    | zero =>
      simp at hj
      subst hj
      simp [hm, List.head?_eq_getElem?, hp]
    | succ j =>
      have h0 := hbefore 0 y (by omega) (by simp)
      rw [if_neg (by simpa [List.head?_eq_getElem?] using h0)]
      rw [ih (k + 1) j pend.tail (by simpa using hj) (by rw [headD_tail]; exact hp)
        (fun i x hi hx => by simpa [headD_tail] using hbefore (i + 1) x (by omega) (by simpa using hx))]
      simp [Nat.add_assoc, Nat.add_comm 1 j]

/-- Whether source `k` is pending, in the words of the statements. -/
theorem pending_getD (s : State) (k : Nat) (src : IntSource) (h : s.cfg.intTable[k]? = some src) :
    (pendingSources s)[k]?.getD false = (s.int.irqPending[k]?.getD false || asksNow s k src) := by
  simp only [pendingSources, mapSources_getElem?, h, Option.map_some, Option.getD_some, Nat.zero_add]
  rfl

/-- Whether interrupts are enabled, in the words of the statements. -/
theorem intsEnabled_iff (s : State) : intsEnabled s = true ↔ s.int.ints = true ∨ s.cfg.member.hasExt = false := by
  simp [intsEnabled]

/-- No source is a candidate exactly when there is no interrupt to take. -/
theorem noInterrupt_iff (s : State) : NoInterrupt s ↔ interruptToTake s = none := by
  unfold interruptToTake
  by_cases he : intsEnabled s = true
  · rw [if_pos he, firstCandidate_eq_none]
    constructor
    · intro h k src hk hh
      rw [pending_getD s k src hk] at hh
      exact h k src ⟨hk, (intsEnabled_iff s).mp he, hh.1, hh.2⟩
    · intro h k src hc
      exact h k src hc.1 ⟨hc.2.2.1, by rw [pending_getD s k src hc.1]; exact hc.2.2.2⟩
  · rw [if_neg he]
    simp only [iff_true]
    intro k src hc
    exact he ((intsEnabled_iff s).mpr hc.2.1)

/-- The first candidate is the interrupt to take. -/
theorem interruptToTake_of_candidate (s : State) (k : Nat) (src : IntSource) (hc : Candidate s k src)
    (hfirst : ∀ j x, j < k → ¬ Candidate s j x) : interruptToTake s = some (k, src) := by
  obtain ⟨hk, hen, hm, hl⟩ := hc
  unfold interruptToTake
  rw [if_pos ((intsEnabled_iff s).mpr hen)]
  have := firstCandidate_eq_some s.int.imask 0 k src s.cfg.intTable (pendingSources s)
    hk hm (by rw [pending_getD s k src hk]; exact hl)
    (fun i x hi hx hh => hfirst i x hi ⟨hx, hen, hh.1, by rw [← pending_getD s i x hx]; exact hh.2⟩)
  rw [Nat.zero_add] at this
  exact this

/-- With no interrupt to take, dispatch only samples the requests. -/
theorem dispatchInterrupt_none (s : State) (pend : List Bool) (hn : NoInterrupt s) (hp : LatchesNow s pend) :
    dispatchInterrupt s = .ok { s with int := { s.int with irqPending := pend } } := by
  unfold dispatchInterrupt
  rw [(noInterrupt_iff s).mp hn, (latchesNow_iff s pend).mp hp]
  rfl

/-- A fetchable word is fetched and leaves the state. -/
theorem fetch_of_fetches (s : State) (w : PmWord) (h : Fetches s w) : fetch s = .ok (w, s) := by
  obtain ⟨_, hw, hk, hr⟩ := h
  unfold fetch readPm
  rw [if_neg hw]
  rcases hk with hk | hk <;> simp [hk, hr]

/-- PC at no loop end, as the sequencer tests it. -/
theorem atLoopEnd_none (s : State) (h : OutsideLoopEnd s) : atLoopEnd s = none := by
  unfold atLoopEnd
  cases hl : s.seq.loopStack with
  | nil => rfl
  | cons e rest => simp [h e rest hl]

/-- PC at the end of the current loop, as the sequencer tests it. -/
theorem atLoopEnd_some (s : State) (e : LoopEntry) (rest : List LoopEntry) (hl : s.seq.loopStack = e :: rest)
    (he : e.last = s.seq.pc) : atLoopEnd s = some e := by
  simp [atLoopEnd, hl, he]

/-- Dispatch only samples the requests: with no interrupt to take, or with a pending pop that holds it. -/
theorem dispatchInterrupt_goesOn (s : State) (pend : List Bool)
    (h : NoInterrupt s ∨ (s.seq.pcPopPending = true ∧ s.cfg.topPcPopInt = .hold)) (hp : LatchesNow s pend) :
    dispatchInterrupt s = .ok { s with int := { s.int with irqPending := pend } } := by
  rcases h with h | ⟨h1, h2⟩
  · exact dispatchInterrupt_none s pend h hp
  · unfold dispatchInterrupt
    rw [(latchesNow_iff s pend).mp hp]
    cases hi : interruptToTake s with
    | none => rfl
    | some p =>
      have e1 : (sampleRequests s).seq.pcPopPending = true := h1
      have e2 : (sampleRequests s).cfg.topPcPopInt = .hold := h2
      simp only [takeUnlessPopPending]
      rw [e1, e2]
      rfl

/-- A step that takes no interrupt and fetches `i` runs `i` on the state with the requests sampled. -/
theorem step_eq_runInstr (s : State) (w : PmWord) (i : Instr) (pend : List Bool)
    (h : NoInterrupt s ∨ (s.seq.pcPopPending = true ∧ s.cfg.topPcPopInt = .hold)) (hp : LatchesNow s pend)
    (hf : Fetches s w) (hd : decodeWith s.cfg.codes w = .ok i) :
    step s = runInstr i { s with int := { s.int with irqPending := pend } } := by
  unfold step
  rw [dispatchInterrupt_goesOn s pend h hp]
  have hf' : Fetches { s with int := { s.int with irqPending := pend } } w := hf
  have hd' : decodeWith ({ s with int := { s.int with irqPending := pend } } : State).cfg.codes w = .ok i := hd
  generalize ({ s with int := { s.int with irqPending := pend } } : State) = u at hf' hd' ⊢
  have h1 := hf'.1
  simp only [h1, Bool.false_eq_true, if_false, runNext]
  rw [fetch_of_fetches _ w hf']
  simp only [hd']

/-- The state an instruction begins on, away from a loop end. -/
theorem beginInstr_away (s : State) (pend : List Bool) (h : OutsideLoopEnd s) :
    beginInstr { s with int := { s.int with irqPending := pend } } = entered pend s := by
  have hn : atLoopEnd { s with int := { s.int with irqPending := pend } } = none := atLoopEnd_none _ h
  unfold beginInstr
  rw [hn]
  rfl

/-- The state an instruction begins on at the end of a loop. -/
theorem beginInstr_end (s : State) (e : LoopEntry) (rest : List LoopEntry) (pend : List Bool)
    (h : s.seq.loopStack = e :: rest) (he : e.last = s.seq.pc) :
    beginInstr { s with int := { s.int with irqPending := pend } } = enteredAtEnd e pend s := by
  have hs : atLoopEnd { s with int := { s.int with irqPending := pend } } = some e := atLoopEnd_some _ e rest h he
  unfold beginInstr
  rw [hs]
  unfold enteredAtEnd entered afterTerm setCntr cntrDown
  have hc : s.seq.cntr - 1#14 = BitVec.ofNat 14 (s.seq.cntr.toNat + 16383) := by bv_omega
  by_cases hce : e.term = .ce <;> simp [hce, hc]

/-- The restriction class of an instruction in the words of the statements (R337). -/
theorem loopEndUse_eq (i : Instr) :
    loopEndUse i = if neverLast i then .forbidden else .cntr (touchesCntr i) := by
  cases i <;> rfl

/-- An allowed instruction is not restricted at the end of a loop. -/
theorem loopEndRestricted_false (i : Instr) (s : State) (e : LoopEntry) (rest : List LoopEntry)
    (hl : s.seq.loopStack = e :: rest) (he : e.last = s.seq.pc) (ha : AllowedHere i s) :
    loopEndRestricted i s = false := by
  obtain ⟨h1, h2⟩ := ha e rest hl he
  simp only [loopEndRestricted, atLoopEnd_some s e rest hl he, loopEndUse_eq, h1]
  by_cases hc : e.term = .ce <;> simp_all

/-- A forbidden instruction is restricted at the end of a loop. -/
theorem loopEndRestricted_true (i : Instr) (s : State) (e : LoopEntry) (rest : List LoopEntry)
    (hl : s.seq.loopStack = e :: rest) (he : e.last = s.seq.pc)
    (ha : neverLast i = true ∨ (e.term = .ce ∧ touchesCntr i = true)) : loopEndRestricted i s = true := by
  simp only [loopEndRestricted, atLoopEnd_some s e rest hl he, loopEndUse_eq]
  rcases ha with h | ⟨h, h'⟩
  · simp [h]
  · by_cases hn : neverLast i = true <;> simp_all

/-- The termination condition in the words of the statements. -/
theorem termHolds_iff (t : Term) (s : State) : termHolds t s = true ↔ TermMet t s := by
  cases t <;> simp only [termHolds, TermMet, cntrDown]
  all_goals (try cases flagAz s) <;> (try cases flagAn s) <;> (try cases flagAv s) <;> (try simp)
  all_goals bv_omega

/-! The end of a run (R362). -/

/-- A processor whose interrupts are all masked or disabled takes none, whatever the environment requests. -/
theorem noInterruptToCome_of_blocked (s : State) (h : interruptsBlocked s = true) : noInterruptToCome s := by
  simp only [interruptsBlocked, Bool.or_eq_true, Bool.not_eq_true', List.all_eq_true] at h
  rcases h with h | h
  · exact .inl h
  · exact .inr fun k src hk hm => by
      have := h src (List.mem_of_getElem? hk)
      simp [hm] at this

/-- Where no interrupt is to come, none is taken now. -/
theorem noInterrupt_of_noneToCome (s : State) (h : noInterruptToCome s) : NoInterrupt s := by
  rintro k src ⟨hk, hen, hm, hp⟩
  rcases h with h | h
  · rw [(intsEnabled_iff s).mpr hen] at h
    cases h
  · have := h k src hk hm s.steps (Nat.le_refl _)
    have e : pendingNow { s with steps := s.steps } k src (s.int.irqPending[k]?.getD false) =
        (s.int.irqPending[k]?.getD false || asksNow s k src) := rfl
    rw [e, hp] at this
    cases this

/-- An idle processor with no interrupt to come stays so: the run is over (R362 a). -/
theorem idle_step_of_noneToCome (s : State) (h : noInterruptToCome s) (hi : s.int.idle = true) :
    ∃ t, step s = .next t ∧ t.int.idle = true ∧ noInterruptToCome t := by
  have hd := dispatchInterrupt_none s _ (noInterrupt_of_noneToCome s h) ((latchesNow_iff s _).mpr rfl)
  refine ⟨tick { s with
    int := { s.int with irqPending := mapSources (sampledLatch s) 0 s.cfg.intTable s.int.irqPending } }, ?_, hi, ?_⟩
  · unfold step
    rw [hd]
    exact if_pos hi
  · rcases h with h | h
    · exact .inl h
    · refine .inr fun k src hk hm n hn => ?_
      have hs := h k src hk hm s.steps (Nat.le_refl _)
      have hl := h k src hk hm n (Nat.le_trans (Nat.le_succ _) hn)
      have hlatch : (mapSources (sampledLatch s) 0 s.cfg.intTable s.int.irqPending)[k]?.getD false = false := by
        have hk' : s.cfg.intTable[k]? = some src := hk
        rw [mapSources_getElem?, hk']
        simp only [Option.map_some, Option.getD_some, Nat.zero_add, sampledLatch]
        have e : pendingNow s k src (s.int.irqPending[k]?.getD false) = false := hs
        rw [e]
        simp only [pendingNow, Bool.or_eq_false_iff] at e
        simp [e.1]
      show pendingNow _ k src ((mapSources (sampledLatch s) 0 s.cfg.intTable s.int.irqPending)[k]?.getD false) = false
      rw [hlatch]
      simp only [pendingNow, Bool.or_eq_false_iff] at hl ⊢
      exact ⟨trivial, hl.2⟩

end Sys2Proof.Machine
end

