-- ==== Sys2Proof/Laws/Claims.lean ====
section
/-! SUPPORT. The shared operations in the words of the statements: what a register write, a register read, a memory
access and a computation clause make of the state. Proofs of statements cite these and do not unfold the operations. -/

namespace Sys2Proof.Machine

open Claims

/-! Registers. -/

/-- A write of a data register. -/
theorem writeDreg_written (d : DReg) (v : Word) (s : State) : DregWritten d v s (writeDreg d v s) := by
  unfold writeDreg
  refine ⟨_, rfl, ?_, ?_, ?_⟩
  · cases d <;> simp [dregVal, writeDregBank, BitVec.toNat_setWidth]
    simp [BitVec.msb_eq_toInt]
  · intro r hr hm
    cases d <;> cases r <;> simp_all [dregVal, writeDregBank]
  · cases d <;> simp [writeDregBank]

theorem setWidth_eq_ofNat {n : Nat} (m : Nat) (v : BitVec n) : v.setWidth m = BitVec.ofNat m v.toNat := by
  ext; simp

theorem ifcLatches_length (v : Word) : ∀ (srcs : List IntSource) (pend : List Bool),
    (ifcLatches v srcs pend).length = srcs.length
  | [], _ => rfl
  | _ :: rest, pend => by simp [ifcLatches, ifcLatches_length v rest]

/-- The latch of source `k` after a write of `v` to IFC. -/
theorem ifcLatches_getElem? (v : Word) : ∀ (srcs : List IntSource) (pend : List Bool) (k : Nat) (src : IntSource),
    srcs[k]? = some src → (ifcLatches v srcs pend)[k]? = some (latchAfterIfc v src (pend[k]?.getD false))
  | [], _, k, src => by simp
  | x :: rest, pend, 0, src => by
    intro h
    simp at h
    subst h
    simp [ifcLatches, ifcLatch, latchAfterIfc, List.head?_eq_getElem?]
    cases x.clearBit <;> cases x.forceBit <;> simp
  | x :: rest, pend, k + 1, src => by
    intro h
    simp only [ifcLatches, List.getElem?_cons_succ]
    rw [ifcLatches_getElem? v rest pend.tail k src (by simpa using h), headD_tail]

/-- A register that can be written is written. -/
theorem writeReg_written (w : PmWord) (d : Reg) (v : Word) (s : State) (h : regWritable d s) :
    ∃ t, writeReg w d v s = .ok t ∧ RegWritten d v s t := by
  obtain ⟨h1, h2⟩ := h
  cases d <;>
    simp only [writeReg, RegWritten, reduceCtorEq, ne_eq, not_true_eq_false, Except.ok.injEq,
      exists_eq_left'] at h1 ⊢
  case dreg d => exact writeDreg_written d v s
  case imask => exact ⟨rfl, fun k hk => lowBits_getLsbD _ _ _ hk⟩
  case icntl =>
    refine ⟨rfl, fun k hk => ?_⟩
    simp only [setInt, icntlOf, BitVec.getLsbD_and, lowBits_getLsbD _ _ _ hk]
    interval_cases k <;> simp
  case cntr =>
    cases hh : (s.cfg.cntrFirstLoadPushes || s.seq.cntrLoaded)
    · refine ⟨_, loadCntr_eq_ok.mpr (.inr ⟨hh, rfl⟩), ?_⟩
      rw [setWidth_eq_ofNat]
      rfl
    · refine ⟨_, loadCntr_eq_ok.mpr (.inl ⟨hh, h2 rfl hh, rfl⟩), ?_⟩
      rw [setWidth_eq_ofNat]
      rfl
  case ifc =>
    refine ⟨rfl, ?_, ?_⟩
    · simp [setInt, ifcLatches_length]
    · intro k src hk
      simp only [setInt, lowBits]
      exact ifcLatches_getElem? _ _ _ k src hk
  all_goals rfl

/-- A register that is a source is read. -/
theorem readReg_reads (w : PmWord) (r : Reg) (s : State) (h : r.isSource = true) :
    ∃ v u, readReg w r s = .ok (v, u) ∧ RegReads r s v u ∧ u.cfg = s.cfg ∧ u.seq = s.seq ∧ u.mem = s.mem := by
  cases r <;> simp only [readReg, RegReads, Except.ok.injEq, Prod.mk.injEq, Reg.isSource] at h ⊢
  all_goals first | exact absurd h (by decide) | refine ⟨_, _, ⟨rfl, rfl⟩, ?_, by simp, by simp, by simp⟩
  all_goals first | rfl | skip
  all_goals refine ⟨?_, rfl⟩
  case dreg d =>
    cases d <;> simp [IsBusValue, signedWidth, regBits, dregVal]
    all_goals (rw [BitVec.toInt_signExtend, BitVec.toInt_eq_toNat_bmod]; simp [Int.bmod]; omega)
  all_goals simp [IsBusValue, signedWidth, regBits]
  all_goals (try omega)
  all_goals (try (rw [BitVec.toInt_signExtend, BitVec.toInt_eq_toNat_bmod]; simp [Int.bmod]; omega))

/-! Memory. -/

theorem readDm_reads (s : State) (a : Addr) (h : dmReadable s a) :
    ∃ v u, readDm a s = .ok (v, u) ∧ DmReads s a v u ∧ u.cfg = s.cfg ∧ u.seq = s.seq := by
  rcases h with ⟨hk, hs⟩ | hk
  · obtain ⟨v, hv⟩ := Option.isSome_iff_exists.mp hs
    exact ⟨v, s, readDm_eq_ok.mpr (.inl ⟨hk, hv, rfl⟩), .inl ⟨hk, hv, rfl⟩, rfl, rfl⟩
  · exact ⟨_, _, readDm_eq_ok.mpr (.inr ⟨hk, rfl, rfl⟩), .inr ⟨hk, rfl⟩, rfl, rfl⟩

theorem readPm_reads (s : State) (a : Addr) (h : pmReadable s a) :
    ∃ p u, readPm a s = .ok (p, u) ∧ PmReads s a p u := by
  rcases h with ⟨hk, hs⟩ | hk
  · obtain ⟨v, hv⟩ := Option.isSome_iff_exists.mp hs
    exact ⟨v, s, readPm_eq_ok.mpr (.inl ⟨hk, hv, rfl⟩), .inl ⟨hk, hv, rfl⟩⟩
  · exact ⟨_, _, readPm_eq_ok.mpr (.inr ⟨hk, rfl, rfl⟩), .inr ⟨hk, rfl⟩⟩

theorem writeDm_writes (s : State) (a : Addr) (v : Word) (h : dmWritable s a) :
    ∃ t, writeDm a v s = .ok t ∧ DmWrites s a v t := by
  rcases h with hk | hk
  · exact ⟨_, writeDm_eq_ok.mpr (.inl ⟨hk, rfl⟩), .inl ⟨hk, by simp [Memory.read_write_same],
      fun b hb => by simp [Memory.read_write_other, hb], rfl⟩⟩
  · exact ⟨_, writeDm_eq_ok.mpr (.inr ⟨hk, rfl⟩), .inr ⟨hk, rfl⟩⟩

theorem writePm_writes (s : State) (a : Addr) (v : PmWord) (h : pmWritable s a) :
    ∃ t, writePm a v s = .ok t ∧ PmWrites s a v t := by
  rcases h with hk | hk
  · exact ⟨_, writePm_eq_ok.mpr (.inl ⟨hk, rfl⟩), .inl ⟨hk, by simp [Memory.read_write_same],
      fun b hb => by simp [Memory.read_write_other, hb], rfl⟩⟩
  · exact ⟨_, writePm_eq_ok.mpr (.inr ⟨hk, rfl⟩), .inr ⟨hk, rfl⟩⟩

/-- Bits 23 to 8 of a program memory word. -/
theorem pmHigh (p : PmWord) : p.extractLsb' 8 16 = BitVec.ofNat 16 (p.toNat / 2 ^ 8) := by
  apply BitVec.eq_of_toNat_eq
  simp [Nat.shiftRight_eq_div_pow]

/-- Bits 7 to 0 of a program memory word. -/
theorem pmLow (p : PmWord) : p.extractLsb' 0 8 = BitVec.ofNat 8 p.toNat := by
  apply BitVec.eq_of_toNat_eq
  simp

/-- The word a program memory write stores. -/
theorem append_px (v : Word) (p : BitVec 8) : v ++ p = pmWordOf v p := by
  apply BitVec.eq_of_toNat_eq
  simp only [pmWordOf, BitVec.toNat_append, BitVec.toNat_ofNat]
  rw [← Nat.shiftLeft_add_eq_or_of_lt p.isLt, Nat.shiftLeft_eq]
  have := v.isLt
  have := p.isLt
  omega

/-! Computation clauses. -/

/-- A computation clause is its single-function form. -/
theorem exec_clauseForm (z : Dest) (op : AluMac) (s : State) : exec (clauseForm z op) s = .next (computeOp z op s) := by
  cases op with
  | alu f y x => cases f <;> rfl
  | mac f y x => obtain ⟨o, m⟩ := f; cases o <;> cases m <;> rfl

/-- A shifter clause is its conditional form without a condition. -/
theorem exec_shiftForm (f : ShiftFn) (x : ShiftXop) (s : State) :
    exec (shiftForm f x .always) s = .next (computeShift f x s) := by
  cases f with
  | lshift r o => cases r <;> cases o <;> rfl
  | ashift r o => cases r <;> cases o <;> rfl
  | norm r o => cases r <;> cases o <;> rfl
  | _ => rfl

theorem clashes_computeDests (z : Dest) (op : AluMac) (d : DReg) :
    clashes (computeDests z op) d = clauseWrites z op d := by
  cases z <;> cases op <;> cases d <;> rfl

theorem clashes_shiftDests (f : ShiftFn) (d : DReg) : clashes (shiftDests f) d = shiftWrites f d := by
  cases f <;> cases d <;> rfl

end Sys2Proof.Machine
end

