-- ==== Sys2Proof/Laws/Encoding.lean ====
section
/-! SUPPORT. The small lemmas of the encoding: reading a field of a word put together from fields, that a
complete set of code tables is inverted by its decoding, and that the default set is complete. Together they reduce
`decodeWith k (encodeWith k i)` to `i` by simp. -/

namespace Sys2Proof

/-! Fields of a word put together from fields. -/

@[simp] theorem fld_or (a b : PmWord) (lo n : Nat) : fld (a ||| b) lo n = fld a lo n ||| fld b lo n := by
  simp only [fld]; ext i hi; simp

/-- A field inside the one that was put. -/
theorem fld_put_within {k : Nat} (v : BitVec k) (at' lo n : Nat) (h : at' ≤ lo) (_h2 : lo + n ≤ at' + k)
    (h3 : lo + n ≤ 24) : fld (put at' v) lo n = v.extractLsb' (lo - at') n := by
  simp only [fld, put]; ext i hi
  simp only [BitVec.getElem_extractLsb', BitVec.getLsbD_shiftLeft, BitVec.getLsbD_setWidth]
  have h4 : lo + i < 24 := by omega
  have h5 : ¬ lo + i < at' := by omega
  have h7 : lo + i - at' = lo - at' + i := by omega
  simp [h4, h5, h7]; intro h8; omega

/-- A field that shares no bit with the one that was put. -/
theorem fld_put_outside {k : Nat} (v : BitVec k) (at' lo n : Nat) (h : lo + n ≤ at' ∨ at' + k ≤ lo) :
    fld (put at' v) lo n = 0#n := by
  simp only [fld, put]; ext i hi
  simp only [BitVec.getElem_extractLsb', BitVec.getLsbD_shiftLeft, BitVec.getLsbD_setWidth, BitVec.getElem_zero]
  rcases h with h | h
  · have : lo + i < at' := by omega
    simp [this]
  · rw [BitVec.getLsbD_of_ge v _ (by omega)]; simp

@[simp] theorem fld_put_self {n : Nat} (v : BitVec n) (lo : Nat) (h : lo + n ≤ 24) : fld (put lo v) lo n = v := by
  rw [fld_put_within v lo lo n (Nat.le_refl _) (Nat.le_refl _) h]; simp

@[simp] theorem fld_zero (lo n : Nat) : fld 0#24 lo n = 0#n := by simp [fld]

@[simp] theorem ofBool_eq_one (b : Bool) : (BitVec.ofBool b == 1#1) = b := by cases b <;> rfl

@[simp] theorem append_halves4 (n : BitVec 4) : n.extractLsb' 2 2 ++ n.extractLsb' 0 2 = n := by
  revert n; decide

/-- Bits 7 to 4 of the constant form: the low half of the constant's number, then BO (R120). -/
theorem fld_halves (cc b : BitVec 2) : fld (put 6 cc ||| put 4 b) 4 4 = cc ++ b := by
  revert cc b; decide

@[simp] theorem append_halves14 (a : Addr) : a.extractLsb' 12 2 ++ a.extractLsb' 0 12 = a := by
  apply BitVec.eq_of_getLsbD_eq
  intro i hi
  rw [BitVec.getLsbD_append]
  by_cases h : i < 12
  · simp [h]
  · have h2 : i - 12 < 2 := by omega
    have h3 : 12 + (i - 12) = i := by omega
    simp [h, h2, h3]

/-! The codes the sources give. -/

@[simp] theorem termOf_termCode (v : Term) : termOf (termCode v) = v := by
  cases v <;> rfl

@[simp] theorem aluFnOf_aluFnCode (v : AluFn) : aluFnOf (aluFnCode v) = v := by
  cases v <;> rfl

@[simp] theorem macFnOf_macFnCode (v : MacFn) : macFnOf (macFnCode v) = some v := by
  rcases v with ⟨_ | _ | _, _ | _ | _ | _ | _⟩ <;> rfl

@[simp] theorem shiftFnOf_shiftFnCode (v : ShiftFn) : shiftFnOf (shiftFnCode v) = v := by
  rcases v with ⟨_ | _, _ | _⟩ | ⟨_ | _, _ | _⟩ | ⟨_ | _, _ | _⟩ | _ | _ | _ | _ <;> rfl

@[simp] theorem macFnOf_zero : macFnOf 0#4 = none := rfl

theorem macFnCode_ne_zero (f : MacFn) : macFnCode f ≠ 0#4 := by
  rcases f with ⟨_ | _ | _, _ | _ | _ | _ | _⟩ <;> decide

/-! The code tables of Appendix A. -/

/-- Every operand a table lists is found under its code. -/
theorem look_codeOf {α : Type} [DecidableEq α] {n : Nat} (t : Vector α (2 ^ n)) (v : α) (h : v ∈ t.toList) :
    look t (codeOf t v) = v := by
  have hl : t.toList.idxOf v < t.toList.length := List.idxOf_lt_length_of_mem h
  have hn : t.toList.idxOf v < 2 ^ n := by simpa using hl
  have ht : (codeOf t v).toNat = t.toList.idxOf v := by
    simp only [codeOf, BitVec.toNat_ofNat]
    exact Nat.mod_eq_of_lt hn
  have hg : t.toList[t.toList.idxOf v]'hl = v := List.getElem_idxOf hl
  simp only [look, ht]
  exact hg

/-- The default tables are complete. -/
theorem standardCodes_complete : standardCodes.Complete where
  aluXop v := by cases v <;> rfl
  macXop v := by cases v <;> rfl
  shiftXop v := by cases v <;> rfl
  aluYop v := by cases v <;> rfl
  macYop v := by cases v <;> rfl
  dest v := by cases v <;> rfl
  dreg v := by cases v <;> rfl
  cond v := by cases v <;> rfl
  bo v := by cases v <;> rfl
  constNum v := by revert v; decide
  dmDest v := by cases v <;> rfl
  pmDest v := by cases v <;> rfl
  dagSel v := by cases v <;> rfl
  pinOp v := by cases v <;> rfl
  modeOp v := by cases v <;> rfl
  pop v := by cases v <;> rfl
  stsOp v := by cases v <;> rfl
  slowDiv v := by cases v <;> rfl
  reg r := by
    cases r with
    | dreg d => cases d <;> rfl
    | i n => revert n; decide
    | m n => revert n; decide
    | l n => revert n; decide
    | _ => rfl
  zeroIsResult := rfl
  tenIsAr := rfl
  topIsFree := rfl
  boZeroIsFree := rfl
  dvZeroIsFree := rfl

namespace Codes.Complete

variable {k : Codes} (h : k.Complete)
include h

theorem divsYop (v : DivsYop) : divsYopOf k (divsYopCode k v) = some v := by
  cases v <;> simp [divsYopOf, divsYopCode, DivsYop.toYop, h.aluYop]

/-- No register has the code that marks TOPPCSTACK (R128, R150). -/
theorem reg_ne_top (r : Reg) : ¬ (rgpCode k r = 3#2 ∧ regCode k r = 15#4) := by
  rintro ⟨h1, h2⟩
  have := h.reg r
  rw [h1, h2, h.topIsFree] at this
  cases this

/-- A constant form has no BO of the register form. -/
theorem boCode_ne_zero (v : Bool) : boCode k v ≠ 0#2 := by
  intro hz
  have := h.bo v
  rw [hz, h.boZeroIsFree] at this
  cases this

theorem slowDivCode_ne_zero (v : SlowDiv) : slowDivCode k v ≠ 0#4 := by
  intro hz
  have := h.slowDiv v
  rw [hz, h.dvZeroIsFree] at this
  cases this

/-- Z = 0 is the result register alone. -/
theorem destCode_eq_zero (v : Dest) : destCode k v = 0#1 ↔ v = .result := by
  constructor
  · intro hz
    have h1 := h.dest v
    have h2 := h.dest .result
    rw [hz] at h1
    rw [h.zeroIsResult] at h2
    exact h1.symm.trans h2
  · rintro rfl
    exact h.zeroIsResult

/-- DREG = 1010 is AR alone. -/
theorem dreg_of_code_ten (v : DReg) (hv : dregCode k v = 10#4) : v = .ar := by
  have h1 := h.dreg v
  rw [hv, h.tenIsAr] at h1
  exact h1.symm

end Codes.Complete

end Sys2Proof
end

