-- ==== Sys2Proof/Laws/Flags.lean ====
section
/-! SUPPORT. The bits of ASTAT after a flag is put into it, the flags an ALU result writes, and the exact sum behind
`add17`. -/

namespace Sys2Proof.Machine

/-- Putting a flag changes its own bit alone. -/
theorem putFlag_getLsbD (v : BitVec 8) (k : Nat) (b : Bool) (j : Nat) (hk : k < 8) :
    (putFlag v k b).getLsbD j = if j = k then b else v.getLsbD j := by
  by_cases hj : j < 8
  · unfold putFlag
    have e : (1#8 <<< k).getLsbD j = decide (j = k) := by
      rw [BitVec.getLsbD_shiftLeft, BitVec.getLsbD_one]
      by_cases h : j = k
      · subst h; simp [hj]
      · simp [h, hj]; omega
    cases b
    · simp only [Bool.false_eq_true, if_false, BitVec.getLsbD_and, BitVec.getLsbD_not, e]
      by_cases h : j = k <;> simp [h, hj, hk]
    · simp only [if_true, BitVec.getLsbD_or, e]
      by_cases h : j = k <;> simp [h]
  · have h2 : j ≠ k := by omega
    simp [h2, BitVec.getLsbD_of_ge _ j (by omega : 8 ≤ j)]

/-- Putting the ALU flags changes bits 0 to 3 alone. -/
theorem putAluFlags_getLsbD (v : BitVec 8) (f : BitVec 4) (j : Nat) :
    (putAluFlags v f).getLsbD j = if j < 4 then f.getLsbD j else v.getLsbD j := by
  unfold putAluFlags
  rw [BitVec.getLsbD_append]
  split <;> rename_i h
  · rfl
  · rw [BitVec.getLsbD_extractLsb']
    have : 4 + (j - 4) = j := by omega
    rw [this]
    by_cases h8 : j < 8
    · simp; omega
    · simp [BitVec.getLsbD_of_ge v j (by omega)]

/-- The order of the four ALU flags. -/
theorem aluFlagBits_getLsbD (z n o c : Bool) :
    (aluFlagBits z n o c).getLsbD 0 = z ∧ (aluFlagBits z n o c).getLsbD 1 = n ∧
    (aluFlagBits z n o c).getLsbD 2 = o ∧ (aluFlagBits z n o c).getLsbD 3 = c := by
  cases z <;> cases n <;> cases o <;> cases c <;> decide

/-- ASTAT after an ALU result: AZ, AN, AV, AC are written and the rest is kept. -/
theorem aluStatus_getLsbD (v : BitVec 8) (l : Bool) (o : AluOut) (j : Nat) :
    (aluStatus v l o).getLsbD j =
      if j = 0 then o.r == 0 else if j = 1 then o.r.msb else if j = 2 then (l && v.getLsbD 2) || o.ov
      else if j = 3 then o.carry else v.getLsbD j := by
  obtain ⟨h0,h1,h2,h3⟩ := aluFlagBits_getLsbD (o.r == 0) o.r.msb ((l && v.getLsbD 2) || o.ov) o.carry
  unfold aluStatus
  rw [putAluFlags_getLsbD]
  match j with
  | 0 => simpa using h0
  | 1 => simpa using h1
  | 2 => simpa using h2
  | 3 => simpa using h3
  | j+4 => simp

/-- ABS writes AS beside them. -/
theorem aluStatusOf_getLsbD (f : AluFn) (x : Word) (v : BitVec 8) (l : Bool) (o : AluOut) (j : Nat) :
    (aluStatusOf f x v l o).getLsbD j =
      if j = 4 ∧ f = .absX then x.msb else (aluStatus v l o).getLsbD j := by
  unfold aluStatusOf
  by_cases h : f = .absX
  · simp only [h, if_true, putFlag_getLsbD _ _ _ _ (by decide : 4 < 8), and_true]
  · simp [h]

/-- `add17` is the sum modulo 2^16, with the carry and the signed overflow of the exact sum. -/
theorem add17_eq (a b : Word) (cin : Bool) :
    (add17 a b cin).r.toNat = (a.toNat + b.toNat + cin.toNat) % 65536 ∧
    (add17 a b cin).carry = decide (65536 ≤ a.toNat + b.toNat + cin.toNat) ∧
    (add17 a b cin).ov =
      (decide (a.toInt + b.toInt + cin.toNat < -32768) || decide (32768 ≤ a.toInt + b.toInt + cin.toNat)) := by
  have ha := a.isLt; have hb := b.isLt
  have hc : cin.toNat ≤ 1 := by cases cin <;> simp
  refine ⟨by simp [add17], ?_, ?_⟩
  · simp only [add17, Nat.testBit_eq_decide_div_mod_eq, decide_eq_decide]; omega
  · rw [Bool.eq_iff_iff]
    simp only [add17, BitVec.msb_eq_decide, BitVec.toInt_eq_toNat_cond, BitVec.toNat_ofNat, Bool.and_eq_true,
      Bool.or_eq_true, decide_eq_true_eq, beq_iff_eq, bne_iff_ne, ne_eq, decide_eq_decide]
    split <;> split <;> omega

/-- The complement of a signed number is its negation less one. -/
theorem toInt_not (y : Word) : (~~~y).toInt = -y.toInt - 1 := by
  have h := y.isLt
  simp only [BitVec.toInt_eq_toNat_cond, BitVec.toNat_not]
  split <;> split <;> omega

end Sys2Proof.Machine
end

