-- ==== Sys2Proof/Laws/PerInstr.lean ====
section
/-! SUPPORT. The per-instruction family `EncodeInRow`: the word of an instruction has the fixed bits that
spec/opcode_table.json gives its row. -/

set_option linter.unusedSimpArgs false

namespace Sys2Proof.Laws

/-- The mask of the fixed bits of an instruction's row of the opcode table, and their values. -/
def rowBits : Instr → PmWord × PmWord
  | .aluPassY _ _ _ _ => (0xFBE0F0#24, 0x220000#24)
  | .aluIncY _ _ _ _ => (0xFBE0F0#24, 0x222000#24)
  | .aluAddC _ _ _ _ => (0xFBE0F0#24, 0x224000#24)
  | .aluAdd _ _ _ _ => (0xFBE0F0#24, 0x226000#24)
  | .aluNotY _ _ _ _ => (0xFBE0F0#24, 0x228000#24)
  | .aluNegY _ _ _ _ => (0xFBE0F0#24, 0x22A000#24)
  | .aluSubXYBorrow _ _ _ _ => (0xFBE0F0#24, 0x22C000#24)
  | .aluSubXY _ _ _ _ => (0xFBE0F0#24, 0x22E000#24)
  | .aluDecY _ _ _ _ => (0xFBE0F0#24, 0x230000#24)
  | .aluSubYX _ _ _ _ => (0xFBE0F0#24, 0x232000#24)
  | .aluSubYXBorrow _ _ _ _ => (0xFBE0F0#24, 0x234000#24)
  | .aluNotX _ _ _ _ => (0xFBE0F0#24, 0x236000#24)
  | .aluAnd _ _ _ _ => (0xFBE0F0#24, 0x238000#24)
  | .aluOr _ _ _ _ => (0xFBE0F0#24, 0x23A000#24)
  | .aluXor _ _ _ _ => (0xFBE0F0#24, 0x23C000#24)
  | .aluAbs _ _ _ _ => (0xFBE0F0#24, 0x23E000#24)
  | .aluAddK _ _ _ _ _ => (0xFBE010#24, 0x226010#24)
  | .aluAddKC _ _ _ _ _ => (0xFBE010#24, 0x224010#24)
  | .aluSubXK _ _ _ _ _ => (0xFBE010#24, 0x22E010#24)
  | .aluSubXKBorrow _ _ _ _ _ => (0xFBE010#24, 0x22C010#24)
  | .aluSubKX _ _ _ _ _ => (0xFBE010#24, 0x232010#24)
  | .aluSubKXBorrow _ _ _ _ _ => (0xFBE010#24, 0x234010#24)
  | .aluPassK _ _ _ _ _ => (0xFBE010#24, 0x220010#24)
  | .aluPassKInc _ _ _ _ _ => (0xFBE010#24, 0x222010#24)
  | .aluPassKDec _ _ _ _ _ => (0xFBE010#24, 0x230010#24)
  | .aluTstbit _ _ _ _ => (0xFBE030#24, 0x238010#24)
  | .aluClrbit _ _ _ _ => (0xFBE030#24, 0x238030#24)
  | .aluSetbit _ _ _ _ => (0xFBE030#24, 0x23A010#24)
  | .aluOrNotBit _ _ _ _ => (0xFBE030#24, 0x23A030#24)
  | .aluTglbit _ _ _ _ => (0xFBE030#24, 0x23C010#24)
  | .aluXorNotBit _ _ _ _ => (0xFBE030#24, 0x23C030#24)
  | .aluNotK _ _ _ _ _ => (0xFBE010#24, 0x228010#24)
  | .aluNegK _ _ _ _ _ => (0xFBE010#24, 0x22A010#24)
  | .aluNotXK _ _ _ _ _ => (0xFBE010#24, 0x236010#24)
  | .aluAbsK _ _ _ _ _ => (0xFBE010#24, 0x23E010#24)
  | .divs _ _ => (0xFFE0FF#24, 0x060000#24)
  | .divq _ => (0xFFF8FF#24, 0x071000#24)
  | .noneAlu _ _ _ => (0xFE00FF#24, 0x2A00AA#24)
  | .macMulRnd _ _ _ _ => (0xFBE0F0#24, 0x202000#24)
  | .macMulSs _ _ _ _ => (0xFBE0F0#24, 0x208000#24)
  | .macMulSu _ _ _ _ => (0xFBE0F0#24, 0x20A000#24)
  | .macMulUs _ _ _ _ => (0xFBE0F0#24, 0x20C000#24)
  | .macMulUu _ _ _ _ => (0xFBE0F0#24, 0x20E000#24)
  | .macAddRnd _ _ _ _ => (0xFBE0F0#24, 0x204000#24)
  | .macAddSs _ _ _ _ => (0xFBE0F0#24, 0x210000#24)
  | .macAddSu _ _ _ _ => (0xFBE0F0#24, 0x212000#24)
  | .macAddUs _ _ _ _ => (0xFBE0F0#24, 0x214000#24)
  | .macAddUu _ _ _ _ => (0xFBE0F0#24, 0x216000#24)
  | .macSubRnd _ _ _ _ => (0xFBE0F0#24, 0x206000#24)
  | .macSubSs _ _ _ _ => (0xFBE0F0#24, 0x218000#24)
  | .macSubSu _ _ _ _ => (0xFBE0F0#24, 0x21A000#24)
  | .macSubUs _ _ _ _ => (0xFBE0F0#24, 0x21C000#24)
  | .macSubUu _ _ _ _ => (0xFBE0F0#24, 0x21E000#24)
  | .macSqrMulRnd _ _ _ => (0xFBF8F0#24, 0x202010#24)
  | .macSqrMulSs _ _ _ => (0xFBF8F0#24, 0x208010#24)
  | .macSqrMulUu _ _ _ => (0xFBF8F0#24, 0x20E010#24)
  | .macSqrAddRnd _ _ _ => (0xFBF8F0#24, 0x204010#24)
  | .macSqrAddSs _ _ _ => (0xFBF8F0#24, 0x210010#24)
  | .macSqrAddUu _ _ _ => (0xFBF8F0#24, 0x216010#24)
  | .macSqrSubRnd _ _ _ => (0xFBF8F0#24, 0x206010#24)
  | .macSqrSubSs _ _ _ => (0xFBF8F0#24, 0x218010#24)
  | .macSqrSubUu _ _ _ => (0xFBF8F0#24, 0x21E010#24)
  | .satMr => (0xFFFFFF#24, 0x050000#24)
  | .lshiftHi _ _ => (0xFFF8F0#24, 0x0E0000#24)
  | .lshiftHiOr _ _ => (0xFFF8F0#24, 0x0E0800#24)
  | .lshiftLo _ _ => (0xFFF8F0#24, 0x0E1000#24)
  | .lshiftLoOr _ _ => (0xFFF8F0#24, 0x0E1800#24)
  | .ashiftHi _ _ => (0xFFF8F0#24, 0x0E2000#24)
  | .ashiftHiOr _ _ => (0xFFF8F0#24, 0x0E2800#24)
  | .ashiftLo _ _ => (0xFFF8F0#24, 0x0E3000#24)
  | .ashiftLoOr _ _ => (0xFFF8F0#24, 0x0E3800#24)
  | .normHi _ _ => (0xFFF8F0#24, 0x0E4000#24)
  | .normHiOr _ _ => (0xFFF8F0#24, 0x0E4800#24)
  | .normLo _ _ => (0xFFF8F0#24, 0x0E5000#24)
  | .normLoOr _ _ => (0xFFF8F0#24, 0x0E5800#24)
  | .expHi _ _ => (0xFFF8F0#24, 0x0E6000#24)
  | .expHix _ _ => (0xFFF8F0#24, 0x0E6800#24)
  | .expLo _ _ => (0xFFF8F0#24, 0x0E7000#24)
  | .expadj _ _ => (0xFFF8F0#24, 0x0E7800#24)
  | .lshiftImmHi _ _ => (0xFFF800#24, 0x0F0000#24)
  | .lshiftImmHiOr _ _ => (0xFFF800#24, 0x0F0800#24)
  | .lshiftImmLo _ _ => (0xFFF800#24, 0x0F1000#24)
  | .lshiftImmLoOr _ _ => (0xFFF800#24, 0x0F1800#24)
  | .ashiftImmHi _ _ => (0xFFF800#24, 0x0F2000#24)
  | .ashiftImmHiOr _ _ => (0xFFF800#24, 0x0F2800#24)
  | .ashiftImmLo _ _ => (0xFFF800#24, 0x0F3000#24)
  | .ashiftImmLoOr _ _ => (0xFFF800#24, 0x0F3800#24)
  | .moveFromTop _ => (0xFFF30F#24, 0x0D030F#24)
  | .moveToTop _ => (0xFFFCF0#24, 0x0D0CF0#24)
  | .moveReg _ _ => (0xFFF000#24, 0x0D0000#24)
  | .loadDreg _ _ => (0xF00000#24, 0x400000#24)
  | .loadReg _ _ => (0xF00000#24, 0x300000#24)
  | .readDm _ _ => (0xF00000#24, 0x800000#24)
  | .writeDm _ _ => (0xF00000#24, 0x900000#24)
  | .readDmInd _ _ _ _ => (0xEFFF00#24, 0x600000#24)
  | .writeDmInd _ _ _ _ => (0xEFFF00#24, 0x680000#24)
  | .writeDmImm _ _ _ _ => (0xE00000#24, 0xA00000#24)
  | .readPmInd _ _ _ => (0xFFFF00#24, 0x500000#24)
  | .writePmInd _ _ _ => (0xFFFF00#24, 0x580000#24)
  | .readIo _ _ => (0xFF8000#24, 0x010000#24)
  | .writeIo _ _ => (0xFF8000#24, 0x018000#24)
  | .jump _ _ => (0xFC0000#24, 0x180000#24)
  | .call _ _ => (0xFC0000#24, 0x1C0000#24)
  | .jumpInd _ _ => (0xFFFF30#24, 0x0B0000#24)
  | .callInd _ _ => (0xFFFF30#24, 0x0B0010#24)
  | .jumpFlag _ _ => (0xFF0001#24, 0x030000#24)
  | .callFlag _ _ => (0xFF0001#24, 0x030001#24)
  | .flagOut _ _ _ _ _ => (0xFFF000#24, 0x020000#24)
  | .rts _ => (0xFFFFF0#24, 0x0A0000#24)
  | .rti _ => (0xFFFFF0#24, 0x0A0010#24)
  | .doUntil _ _ => (0xFC0000#24, 0x140000#24)
  | .idle => (0xFFFFFF#24, 0x028000#24)
  | .idleN _ => (0xFFFFF0#24, 0x028000#24)
  | .stackControl _ _ _ _ => (0xFFFFE0#24, 0x040000#24)
  | .enaInts => (0xFFFFFF#24, 0x040060#24)
  | .disInts => (0xFFFFFF#24, 0x040040#24)
  | .modeControl _ _ _ _ _ _ _ => (0xFF0003#24, 0x0C0000#24)
  | .modify _ _ _ => (0xFFFFE0#24, 0x090000#24)
  | .nop => (0xFFFFFF#24, 0x000000#24)
  | .compReadDm _ _ _ _ _ _ => (0xE80000#24, 0x600000#24)
  | .compReadPm _ _ _ _ _ => (0xF80000#24, 0x500000#24)
  | .shiftReadDm _ _ _ _ _ _ => (0xFE8000#24, 0x120000#24)
  | .shiftReadPm _ _ _ _ _ => (0xFF8000#24, 0x110000#24)
  | .compMove _ _ _ _ => (0xF80000#24, 0x280000#24)
  | .shiftMove _ _ _ _ => (0xFF8000#24, 0x100000#24)
  | .compWriteDm _ _ _ _ _ _ => (0xE80000#24, 0x680000#24)
  | .compWritePm _ _ _ _ _ => (0xF80000#24, 0x580000#24)
  | .shiftWriteDm _ _ _ _ _ _ => (0xFE8000#24, 0x128000#24)
  | .shiftWritePm _ _ _ _ _ => (0xFF8000#24, 0x118000#24)
  | .dualRead _ _ _ _ _ _ => (0xC3FF00#24, 0xC00000#24)
  | .compDualRead _ _ _ _ _ _ _ => (0xC00000#24, 0xC00000#24)
  | .unused _ => (0xFF0000#24, 0x080000#24)

/-- A field none of whose bits the mask covers leaves nothing under the mask. -/
theorem put_and_mask {k : Nat} (lo : Nat) (v : BitVec k) (m : PmWord) (h : put lo (BitVec.allOnes k) &&& m = 0#24) :
    put lo v &&& m = 0#24 := by
  ext i hi
  have hb := congrArg (·.getLsbD i) h
  simp only [put, BitVec.getLsbD_and, BitVec.getLsbD_shiftLeft, BitVec.getLsbD_setWidth, BitVec.getLsbD_allOnes] at hb
  simp only [put, BitVec.getElem_eq_testBit_toNat]
  simp only [BitVec.testBit_toNat, BitVec.getLsbD_and, BitVec.getLsbD_shiftLeft, BitVec.getLsbD_setWidth]
  by_cases hk : i - lo < k
  · simp_all
  · have hv : v.getLsbD (i - lo) = false := BitVec.getLsbD_of_ge v _ (Nat.le_of_not_lt hk)
    simp [hv]

/-- The mask of a word put together from two. -/
theorem or_and_mask (a b m : PmWord) : (a ||| b) &&& m = (a &&& m) ||| (b &&& m) := by
  ext i hi
  simp [Bool.and_or_distrib_right]

/-- The word of `i` matches its row of the opcode table. -/
def EncodeInRow.Statement (i : Instr) : Prop := encode i &&& (rowBits i).1 = (rowBits i).2

theorem EncodeInRow.aluPassY : ∀ z y x c, EncodeInRow.Statement (.aluPassY z y x c) := by
  intro z y x c
  show (encAluReg standardCodes .passY z y x c) &&& 0xFBE0F0#24 = 0x220000#24
  simp (disch := decide) only [encAluReg, putAluMac, or_and_mask, put_and_mask, BitVec.or_zero,
    BitVec.zero_or]; rfl

theorem EncodeInRow.aluIncY : ∀ z y x c, EncodeInRow.Statement (.aluIncY z y x c) := by
  intro z y x c
  show (encAluReg standardCodes .incY z y x c) &&& 0xFBE0F0#24 = 0x222000#24
  simp (disch := decide) only [encAluReg, putAluMac, or_and_mask, put_and_mask, BitVec.or_zero,
    BitVec.zero_or]; rfl

theorem EncodeInRow.aluAddC : ∀ z y x c, EncodeInRow.Statement (.aluAddC z y x c) := by
  intro z y x c
  show (encAluReg standardCodes .addC z y x c) &&& 0xFBE0F0#24 = 0x224000#24
  simp (disch := decide) only [encAluReg, putAluMac, or_and_mask, put_and_mask, BitVec.or_zero,
    BitVec.zero_or]; rfl

theorem EncodeInRow.aluAdd : ∀ z y x c, EncodeInRow.Statement (.aluAdd z y x c) := by
  intro z y x c
  show (encAluReg standardCodes .add z y x c) &&& 0xFBE0F0#24 = 0x226000#24
  simp (disch := decide) only [encAluReg, putAluMac, or_and_mask, put_and_mask, BitVec.or_zero,
    BitVec.zero_or]; rfl

theorem EncodeInRow.aluNotY : ∀ z y x c, EncodeInRow.Statement (.aluNotY z y x c) := by
  intro z y x c
  show (encAluReg standardCodes .notY z y x c) &&& 0xFBE0F0#24 = 0x228000#24
  simp (disch := decide) only [encAluReg, putAluMac, or_and_mask, put_and_mask, BitVec.or_zero,
    BitVec.zero_or]; rfl

theorem EncodeInRow.aluNegY : ∀ z y x c, EncodeInRow.Statement (.aluNegY z y x c) := by
  intro z y x c
  show (encAluReg standardCodes .negY z y x c) &&& 0xFBE0F0#24 = 0x22A000#24
  simp (disch := decide) only [encAluReg, putAluMac, or_and_mask, put_and_mask, BitVec.or_zero,
    BitVec.zero_or]; rfl

theorem EncodeInRow.aluSubXYBorrow : ∀ z y x c, EncodeInRow.Statement (.aluSubXYBorrow z y x c) := by
  intro z y x c
  show (encAluReg standardCodes .subXYBorrow z y x c) &&& 0xFBE0F0#24 = 0x22C000#24
  simp (disch := decide) only [encAluReg, putAluMac, or_and_mask, put_and_mask, BitVec.or_zero,
    BitVec.zero_or]; rfl

theorem EncodeInRow.aluSubXY : ∀ z y x c, EncodeInRow.Statement (.aluSubXY z y x c) := by
  intro z y x c
  show (encAluReg standardCodes .subXY z y x c) &&& 0xFBE0F0#24 = 0x22E000#24
  simp (disch := decide) only [encAluReg, putAluMac, or_and_mask, put_and_mask, BitVec.or_zero,
    BitVec.zero_or]; rfl

theorem EncodeInRow.aluDecY : ∀ z y x c, EncodeInRow.Statement (.aluDecY z y x c) := by
  intro z y x c
  show (encAluReg standardCodes .decY z y x c) &&& 0xFBE0F0#24 = 0x230000#24
  simp (disch := decide) only [encAluReg, putAluMac, or_and_mask, put_and_mask, BitVec.or_zero,
    BitVec.zero_or]; rfl

theorem EncodeInRow.aluSubYX : ∀ z y x c, EncodeInRow.Statement (.aluSubYX z y x c) := by
  intro z y x c
  show (encAluReg standardCodes .subYX z y x c) &&& 0xFBE0F0#24 = 0x232000#24
  simp (disch := decide) only [encAluReg, putAluMac, or_and_mask, put_and_mask, BitVec.or_zero,
    BitVec.zero_or]; rfl

theorem EncodeInRow.aluSubYXBorrow : ∀ z y x c, EncodeInRow.Statement (.aluSubYXBorrow z y x c) := by
  intro z y x c
  show (encAluReg standardCodes .subYXBorrow z y x c) &&& 0xFBE0F0#24 = 0x234000#24
  simp (disch := decide) only [encAluReg, putAluMac, or_and_mask, put_and_mask, BitVec.or_zero,
    BitVec.zero_or]; rfl

theorem EncodeInRow.aluNotX : ∀ z y x c, EncodeInRow.Statement (.aluNotX z y x c) := by
  intro z y x c
  show (encAluReg standardCodes .notX z y x c) &&& 0xFBE0F0#24 = 0x236000#24
  simp (disch := decide) only [encAluReg, putAluMac, or_and_mask, put_and_mask, BitVec.or_zero,
    BitVec.zero_or]; rfl

theorem EncodeInRow.aluAnd : ∀ z y x c, EncodeInRow.Statement (.aluAnd z y x c) := by
  intro z y x c
  show (encAluReg standardCodes .andXY z y x c) &&& 0xFBE0F0#24 = 0x238000#24
  simp (disch := decide) only [encAluReg, putAluMac, or_and_mask, put_and_mask, BitVec.or_zero,
    BitVec.zero_or]; rfl

theorem EncodeInRow.aluOr : ∀ z y x c, EncodeInRow.Statement (.aluOr z y x c) := by
  intro z y x c
  show (encAluReg standardCodes .orXY z y x c) &&& 0xFBE0F0#24 = 0x23A000#24
  simp (disch := decide) only [encAluReg, putAluMac, or_and_mask, put_and_mask, BitVec.or_zero,
    BitVec.zero_or]; rfl

theorem EncodeInRow.aluXor : ∀ z y x c, EncodeInRow.Statement (.aluXor z y x c) := by
  intro z y x c
  show (encAluReg standardCodes .xorXY z y x c) &&& 0xFBE0F0#24 = 0x23C000#24
  simp (disch := decide) only [encAluReg, putAluMac, or_and_mask, put_and_mask, BitVec.or_zero,
    BitVec.zero_or]; rfl

theorem EncodeInRow.aluAbs : ∀ z y x c, EncodeInRow.Statement (.aluAbs z y x c) := by
  intro z y x c
  show (encAluReg standardCodes .absX z y x c) &&& 0xFBE0F0#24 = 0x23E000#24
  simp (disch := decide) only [encAluReg, putAluMac, or_and_mask, put_and_mask, BitVec.or_zero,
    BitVec.zero_or]; rfl

theorem EncodeInRow.aluAddK : ∀ z n inv x c, EncodeInRow.Statement (.aluAddK z n inv x c) := by
  intro z n inv x c
  show (encAluConst standardCodes .add z n inv x c) &&& 0xFBE010#24 = 0x226010#24
  cases inv
  all_goals (simp (disch := decide) only [encAluConst, or_and_mask, put_and_mask, BitVec.or_zero, BitVec.zero_or]; rfl)

theorem EncodeInRow.aluAddKC : ∀ z n inv x c, EncodeInRow.Statement (.aluAddKC z n inv x c) := by
  intro z n inv x c
  show (encAluConst standardCodes .addC z n inv x c) &&& 0xFBE010#24 = 0x224010#24
  cases inv
  all_goals (simp (disch := decide) only [encAluConst, or_and_mask, put_and_mask, BitVec.or_zero, BitVec.zero_or]; rfl)

theorem EncodeInRow.aluSubXK : ∀ z n inv x c, EncodeInRow.Statement (.aluSubXK z n inv x c) := by
  intro z n inv x c
  show (encAluConst standardCodes .subXY z n inv x c) &&& 0xFBE010#24 = 0x22E010#24
  cases inv
  all_goals (simp (disch := decide) only [encAluConst, or_and_mask, put_and_mask, BitVec.or_zero, BitVec.zero_or]; rfl)

theorem EncodeInRow.aluSubXKBorrow : ∀ z n inv x c, EncodeInRow.Statement (.aluSubXKBorrow z n inv x c) := by
  intro z n inv x c
  show (encAluConst standardCodes .subXYBorrow z n inv x c) &&& 0xFBE010#24 = 0x22C010#24
  cases inv
  all_goals (simp (disch := decide) only [encAluConst, or_and_mask, put_and_mask, BitVec.or_zero, BitVec.zero_or]; rfl)

theorem EncodeInRow.aluSubKX : ∀ z n inv x c, EncodeInRow.Statement (.aluSubKX z n inv x c) := by
  intro z n inv x c
  show (encAluConst standardCodes .subYX z n inv x c) &&& 0xFBE010#24 = 0x232010#24
  cases inv
  all_goals (simp (disch := decide) only [encAluConst, or_and_mask, put_and_mask, BitVec.or_zero, BitVec.zero_or]; rfl)

theorem EncodeInRow.aluSubKXBorrow : ∀ z n inv x c, EncodeInRow.Statement (.aluSubKXBorrow z n inv x c) := by
  intro z n inv x c
  show (encAluConst standardCodes .subYXBorrow z n inv x c) &&& 0xFBE010#24 = 0x234010#24
  cases inv
  all_goals (simp (disch := decide) only [encAluConst, or_and_mask, put_and_mask, BitVec.or_zero, BitVec.zero_or]; rfl)

theorem EncodeInRow.aluPassK : ∀ z n inv x c, EncodeInRow.Statement (.aluPassK z n inv x c) := by
  intro z n inv x c
  show (encAluConst standardCodes .passY z n inv x c) &&& 0xFBE010#24 = 0x220010#24
  cases inv
  all_goals (simp (disch := decide) only [encAluConst, or_and_mask, put_and_mask, BitVec.or_zero, BitVec.zero_or]; rfl)

theorem EncodeInRow.aluPassKInc : ∀ z n inv x c, EncodeInRow.Statement (.aluPassKInc z n inv x c) := by
  intro z n inv x c
  show (encAluConst standardCodes .incY z n inv x c) &&& 0xFBE010#24 = 0x222010#24
  cases inv
  all_goals (simp (disch := decide) only [encAluConst, or_and_mask, put_and_mask, BitVec.or_zero, BitVec.zero_or]; rfl)

theorem EncodeInRow.aluPassKDec : ∀ z n inv x c, EncodeInRow.Statement (.aluPassKDec z n inv x c) := by
  intro z n inv x c
  show (encAluConst standardCodes .decY z n inv x c) &&& 0xFBE010#24 = 0x230010#24
  cases inv
  all_goals (simp (disch := decide) only [encAluConst, or_and_mask, put_and_mask, BitVec.or_zero, BitVec.zero_or]; rfl)

theorem EncodeInRow.aluTstbit : ∀ z n x c, EncodeInRow.Statement (.aluTstbit z n x c) := by
  intro z n x c
  show (encAluConst standardCodes .andXY z n false x c) &&& 0xFBE030#24 = 0x238010#24
  simp (disch := decide) only [encAluConst, or_and_mask, put_and_mask, BitVec.or_zero, BitVec.zero_or]; rfl

theorem EncodeInRow.aluClrbit : ∀ z n x c, EncodeInRow.Statement (.aluClrbit z n x c) := by
  intro z n x c
  show (encAluConst standardCodes .andXY z n true x c) &&& 0xFBE030#24 = 0x238030#24
  simp (disch := decide) only [encAluConst, or_and_mask, put_and_mask, BitVec.or_zero, BitVec.zero_or]; rfl

theorem EncodeInRow.aluSetbit : ∀ z n x c, EncodeInRow.Statement (.aluSetbit z n x c) := by
  intro z n x c
  show (encAluConst standardCodes .orXY z n false x c) &&& 0xFBE030#24 = 0x23A010#24
  simp (disch := decide) only [encAluConst, or_and_mask, put_and_mask, BitVec.or_zero, BitVec.zero_or]; rfl

theorem EncodeInRow.aluOrNotBit : ∀ z n x c, EncodeInRow.Statement (.aluOrNotBit z n x c) := by
  intro z n x c
  show (encAluConst standardCodes .orXY z n true x c) &&& 0xFBE030#24 = 0x23A030#24
  simp (disch := decide) only [encAluConst, or_and_mask, put_and_mask, BitVec.or_zero, BitVec.zero_or]; rfl

theorem EncodeInRow.aluTglbit : ∀ z n x c, EncodeInRow.Statement (.aluTglbit z n x c) := by
  intro z n x c
  show (encAluConst standardCodes .xorXY z n false x c) &&& 0xFBE030#24 = 0x23C010#24
  simp (disch := decide) only [encAluConst, or_and_mask, put_and_mask, BitVec.or_zero, BitVec.zero_or]; rfl

theorem EncodeInRow.aluXorNotBit : ∀ z n x c, EncodeInRow.Statement (.aluXorNotBit z n x c) := by
  intro z n x c
  show (encAluConst standardCodes .xorXY z n true x c) &&& 0xFBE030#24 = 0x23C030#24
  simp (disch := decide) only [encAluConst, or_and_mask, put_and_mask, BitVec.or_zero, BitVec.zero_or]; rfl

theorem EncodeInRow.aluNotK : ∀ z n inv x c, EncodeInRow.Statement (.aluNotK z n inv x c) := by
  intro z n inv x c
  show (encAluConst standardCodes .notY z n inv x c) &&& 0xFBE010#24 = 0x228010#24
  cases inv
  all_goals (simp (disch := decide) only [encAluConst, or_and_mask, put_and_mask, BitVec.or_zero, BitVec.zero_or]; rfl)

theorem EncodeInRow.aluNegK : ∀ z n inv x c, EncodeInRow.Statement (.aluNegK z n inv x c) := by
  intro z n inv x c
  show (encAluConst standardCodes .negY z n inv x c) &&& 0xFBE010#24 = 0x22A010#24
  cases inv
  all_goals (simp (disch := decide) only [encAluConst, or_and_mask, put_and_mask, BitVec.or_zero, BitVec.zero_or]; rfl)

theorem EncodeInRow.aluNotXK : ∀ z n inv x c, EncodeInRow.Statement (.aluNotXK z n inv x c) := by
  intro z n inv x c
  show (encAluConst standardCodes .notX z n inv x c) &&& 0xFBE010#24 = 0x236010#24
  cases inv
  all_goals (simp (disch := decide) only [encAluConst, or_and_mask, put_and_mask, BitVec.or_zero, BitVec.zero_or]; rfl)

theorem EncodeInRow.aluAbsK : ∀ z n inv x c, EncodeInRow.Statement (.aluAbsK z n inv x c) := by
  intro z n inv x c
  show (encAluConst standardCodes .absX z n inv x c) &&& 0xFBE010#24 = 0x23E010#24
  cases inv
  all_goals (simp (disch := decide) only [encAluConst, or_and_mask, put_and_mask, BitVec.or_zero, BitVec.zero_or]; rfl)

theorem EncodeInRow.divs : ∀ y x, EncodeInRow.Statement (.divs y x) := by
  intro y x
  show (put 16 0x06#8 ||| put 11 (divsYopCode standardCodes y) ||| put 8 (aluXopCode standardCodes x)) &&&
      0xFFE0FF#24 = 0x060000#24
  simp (disch := decide) only [or_and_mask, put_and_mask, BitVec.or_zero, BitVec.zero_or]; rfl

theorem EncodeInRow.divq : ∀ x, EncodeInRow.Statement (.divq x) := by
  intro x
  show (put 16 0x07#8 ||| put 11 2#5 ||| put 8 (aluXopCode standardCodes x)) &&& 0xFFF8FF#24 = 0x071000#24
  simp (disch := decide) only [or_and_mask, put_and_mask, BitVec.or_zero, BitVec.zero_or]; rfl

theorem EncodeInRow.noneAlu : ∀ f y x, EncodeInRow.Statement (.noneAlu f y x) := by
  intro f y x
  show (put 19 5#5 ||| putAluMac standardCodes (.alu f y x) ||| put 4 10#4 ||| put 0 10#4) &&&
      0xFE00FF#24 =
      0x2A00AA#24
  simp (disch := decide) only [putAluMac, or_and_mask, put_and_mask, BitVec.or_zero, BitVec.zero_or]; rfl

theorem EncodeInRow.macMulRnd : ∀ z y x c, EncodeInRow.Statement (.macMulRnd z y x c) := by
  intro z y x c
  show (encMacReg standardCodes ⟨.mul, .rnd⟩ z y x c) &&& 0xFBE0F0#24 = 0x202000#24
  simp (disch := decide) only [encMacReg, putAluMac, or_and_mask, put_and_mask, BitVec.or_zero,
    BitVec.zero_or]; rfl

theorem EncodeInRow.macMulSs : ∀ z y x c, EncodeInRow.Statement (.macMulSs z y x c) := by
  intro z y x c
  show (encMacReg standardCodes ⟨.mul, .ss⟩ z y x c) &&& 0xFBE0F0#24 = 0x208000#24
  simp (disch := decide) only [encMacReg, putAluMac, or_and_mask, put_and_mask, BitVec.or_zero,
    BitVec.zero_or]; rfl

theorem EncodeInRow.macMulSu : ∀ z y x c, EncodeInRow.Statement (.macMulSu z y x c) := by
  intro z y x c
  show (encMacReg standardCodes ⟨.mul, .su⟩ z y x c) &&& 0xFBE0F0#24 = 0x20A000#24
  simp (disch := decide) only [encMacReg, putAluMac, or_and_mask, put_and_mask, BitVec.or_zero,
    BitVec.zero_or]; rfl

theorem EncodeInRow.macMulUs : ∀ z y x c, EncodeInRow.Statement (.macMulUs z y x c) := by
  intro z y x c
  show (encMacReg standardCodes ⟨.mul, .us⟩ z y x c) &&& 0xFBE0F0#24 = 0x20C000#24
  simp (disch := decide) only [encMacReg, putAluMac, or_and_mask, put_and_mask, BitVec.or_zero,
    BitVec.zero_or]; rfl

theorem EncodeInRow.macMulUu : ∀ z y x c, EncodeInRow.Statement (.macMulUu z y x c) := by
  intro z y x c
  show (encMacReg standardCodes ⟨.mul, .uu⟩ z y x c) &&& 0xFBE0F0#24 = 0x20E000#24
  simp (disch := decide) only [encMacReg, putAluMac, or_and_mask, put_and_mask, BitVec.or_zero,
    BitVec.zero_or]; rfl

theorem EncodeInRow.macAddRnd : ∀ z y x c, EncodeInRow.Statement (.macAddRnd z y x c) := by
  intro z y x c
  show (encMacReg standardCodes ⟨.add, .rnd⟩ z y x c) &&& 0xFBE0F0#24 = 0x204000#24
  simp (disch := decide) only [encMacReg, putAluMac, or_and_mask, put_and_mask, BitVec.or_zero,
    BitVec.zero_or]; rfl

theorem EncodeInRow.macAddSs : ∀ z y x c, EncodeInRow.Statement (.macAddSs z y x c) := by
  intro z y x c
  show (encMacReg standardCodes ⟨.add, .ss⟩ z y x c) &&& 0xFBE0F0#24 = 0x210000#24
  simp (disch := decide) only [encMacReg, putAluMac, or_and_mask, put_and_mask, BitVec.or_zero,
    BitVec.zero_or]; rfl

theorem EncodeInRow.macAddSu : ∀ z y x c, EncodeInRow.Statement (.macAddSu z y x c) := by
  intro z y x c
  show (encMacReg standardCodes ⟨.add, .su⟩ z y x c) &&& 0xFBE0F0#24 = 0x212000#24
  simp (disch := decide) only [encMacReg, putAluMac, or_and_mask, put_and_mask, BitVec.or_zero,
    BitVec.zero_or]; rfl

theorem EncodeInRow.macAddUs : ∀ z y x c, EncodeInRow.Statement (.macAddUs z y x c) := by
  intro z y x c
  show (encMacReg standardCodes ⟨.add, .us⟩ z y x c) &&& 0xFBE0F0#24 = 0x214000#24
  simp (disch := decide) only [encMacReg, putAluMac, or_and_mask, put_and_mask, BitVec.or_zero,
    BitVec.zero_or]; rfl

theorem EncodeInRow.macAddUu : ∀ z y x c, EncodeInRow.Statement (.macAddUu z y x c) := by
  intro z y x c
  show (encMacReg standardCodes ⟨.add, .uu⟩ z y x c) &&& 0xFBE0F0#24 = 0x216000#24
  simp (disch := decide) only [encMacReg, putAluMac, or_and_mask, put_and_mask, BitVec.or_zero,
    BitVec.zero_or]; rfl

theorem EncodeInRow.macSubRnd : ∀ z y x c, EncodeInRow.Statement (.macSubRnd z y x c) := by
  intro z y x c
  show (encMacReg standardCodes ⟨.sub, .rnd⟩ z y x c) &&& 0xFBE0F0#24 = 0x206000#24
  simp (disch := decide) only [encMacReg, putAluMac, or_and_mask, put_and_mask, BitVec.or_zero,
    BitVec.zero_or]; rfl

theorem EncodeInRow.macSubSs : ∀ z y x c, EncodeInRow.Statement (.macSubSs z y x c) := by
  intro z y x c
  show (encMacReg standardCodes ⟨.sub, .ss⟩ z y x c) &&& 0xFBE0F0#24 = 0x218000#24
  simp (disch := decide) only [encMacReg, putAluMac, or_and_mask, put_and_mask, BitVec.or_zero,
    BitVec.zero_or]; rfl

theorem EncodeInRow.macSubSu : ∀ z y x c, EncodeInRow.Statement (.macSubSu z y x c) := by
  intro z y x c
  show (encMacReg standardCodes ⟨.sub, .su⟩ z y x c) &&& 0xFBE0F0#24 = 0x21A000#24
  simp (disch := decide) only [encMacReg, putAluMac, or_and_mask, put_and_mask, BitVec.or_zero,
    BitVec.zero_or]; rfl

theorem EncodeInRow.macSubUs : ∀ z y x c, EncodeInRow.Statement (.macSubUs z y x c) := by
  intro z y x c
  show (encMacReg standardCodes ⟨.sub, .us⟩ z y x c) &&& 0xFBE0F0#24 = 0x21C000#24
  simp (disch := decide) only [encMacReg, putAluMac, or_and_mask, put_and_mask, BitVec.or_zero,
    BitVec.zero_or]; rfl

theorem EncodeInRow.macSubUu : ∀ z y x c, EncodeInRow.Statement (.macSubUu z y x c) := by
  intro z y x c
  show (encMacReg standardCodes ⟨.sub, .uu⟩ z y x c) &&& 0xFBE0F0#24 = 0x21E000#24
  simp (disch := decide) only [encMacReg, putAluMac, or_and_mask, put_and_mask, BitVec.or_zero,
    BitVec.zero_or]; rfl

theorem EncodeInRow.macSqrMulRnd : ∀ z x c, EncodeInRow.Statement (.macSqrMulRnd z x c) := by
  intro z x c
  show (encMacSqr standardCodes ⟨.mul, .rnd⟩ z x c) &&& 0xFBF8F0#24 = 0x202010#24
  simp (disch := decide) only [encMacSqr, or_and_mask, put_and_mask, BitVec.or_zero, BitVec.zero_or]; rfl

theorem EncodeInRow.macSqrMulSs : ∀ z x c, EncodeInRow.Statement (.macSqrMulSs z x c) := by
  intro z x c
  show (encMacSqr standardCodes ⟨.mul, .ss⟩ z x c) &&& 0xFBF8F0#24 = 0x208010#24
  simp (disch := decide) only [encMacSqr, or_and_mask, put_and_mask, BitVec.or_zero, BitVec.zero_or]; rfl

theorem EncodeInRow.macSqrMulUu : ∀ z x c, EncodeInRow.Statement (.macSqrMulUu z x c) := by
  intro z x c
  show (encMacSqr standardCodes ⟨.mul, .uu⟩ z x c) &&& 0xFBF8F0#24 = 0x20E010#24
  simp (disch := decide) only [encMacSqr, or_and_mask, put_and_mask, BitVec.or_zero, BitVec.zero_or]; rfl

theorem EncodeInRow.macSqrAddRnd : ∀ z x c, EncodeInRow.Statement (.macSqrAddRnd z x c) := by
  intro z x c
  show (encMacSqr standardCodes ⟨.add, .rnd⟩ z x c) &&& 0xFBF8F0#24 = 0x204010#24
  simp (disch := decide) only [encMacSqr, or_and_mask, put_and_mask, BitVec.or_zero, BitVec.zero_or]; rfl

theorem EncodeInRow.macSqrAddSs : ∀ z x c, EncodeInRow.Statement (.macSqrAddSs z x c) := by
  intro z x c
  show (encMacSqr standardCodes ⟨.add, .ss⟩ z x c) &&& 0xFBF8F0#24 = 0x210010#24
  simp (disch := decide) only [encMacSqr, or_and_mask, put_and_mask, BitVec.or_zero, BitVec.zero_or]; rfl

theorem EncodeInRow.macSqrAddUu : ∀ z x c, EncodeInRow.Statement (.macSqrAddUu z x c) := by
  intro z x c
  show (encMacSqr standardCodes ⟨.add, .uu⟩ z x c) &&& 0xFBF8F0#24 = 0x216010#24
  simp (disch := decide) only [encMacSqr, or_and_mask, put_and_mask, BitVec.or_zero, BitVec.zero_or]; rfl

theorem EncodeInRow.macSqrSubRnd : ∀ z x c, EncodeInRow.Statement (.macSqrSubRnd z x c) := by
  intro z x c
  show (encMacSqr standardCodes ⟨.sub, .rnd⟩ z x c) &&& 0xFBF8F0#24 = 0x206010#24
  simp (disch := decide) only [encMacSqr, or_and_mask, put_and_mask, BitVec.or_zero, BitVec.zero_or]; rfl

theorem EncodeInRow.macSqrSubSs : ∀ z x c, EncodeInRow.Statement (.macSqrSubSs z x c) := by
  intro z x c
  show (encMacSqr standardCodes ⟨.sub, .ss⟩ z x c) &&& 0xFBF8F0#24 = 0x218010#24
  simp (disch := decide) only [encMacSqr, or_and_mask, put_and_mask, BitVec.or_zero, BitVec.zero_or]; rfl

theorem EncodeInRow.macSqrSubUu : ∀ z x c, EncodeInRow.Statement (.macSqrSubUu z x c) := by
  intro z x c
  show (encMacSqr standardCodes ⟨.sub, .uu⟩ z x c) &&& 0xFBF8F0#24 = 0x21E010#24
  simp (disch := decide) only [encMacSqr, or_and_mask, put_and_mask, BitVec.or_zero, BitVec.zero_or]; rfl

theorem EncodeInRow.satMr : EncodeInRow.Statement .satMr := rfl

theorem EncodeInRow.lshiftHi : ∀ x c, EncodeInRow.Statement (.lshiftHi x c) := by
  intro x c
  show (encShiftCond standardCodes (.lshift .hi false) x c) &&& 0xFFF8F0#24 = 0x0E0000#24
  simp (disch := decide) only [encShiftCond, or_and_mask, put_and_mask, BitVec.or_zero, BitVec.zero_or]; rfl

theorem EncodeInRow.lshiftHiOr : ∀ x c, EncodeInRow.Statement (.lshiftHiOr x c) := by
  intro x c
  show (encShiftCond standardCodes (.lshift .hi true) x c) &&& 0xFFF8F0#24 = 0x0E0800#24
  simp (disch := decide) only [encShiftCond, or_and_mask, put_and_mask, BitVec.or_zero, BitVec.zero_or]; rfl

theorem EncodeInRow.lshiftLo : ∀ x c, EncodeInRow.Statement (.lshiftLo x c) := by
  intro x c
  show (encShiftCond standardCodes (.lshift .lo false) x c) &&& 0xFFF8F0#24 = 0x0E1000#24
  simp (disch := decide) only [encShiftCond, or_and_mask, put_and_mask, BitVec.or_zero, BitVec.zero_or]; rfl

theorem EncodeInRow.lshiftLoOr : ∀ x c, EncodeInRow.Statement (.lshiftLoOr x c) := by
  intro x c
  show (encShiftCond standardCodes (.lshift .lo true) x c) &&& 0xFFF8F0#24 = 0x0E1800#24
  simp (disch := decide) only [encShiftCond, or_and_mask, put_and_mask, BitVec.or_zero, BitVec.zero_or]; rfl

theorem EncodeInRow.ashiftHi : ∀ x c, EncodeInRow.Statement (.ashiftHi x c) := by
  intro x c
  show (encShiftCond standardCodes (.ashift .hi false) x c) &&& 0xFFF8F0#24 = 0x0E2000#24
  simp (disch := decide) only [encShiftCond, or_and_mask, put_and_mask, BitVec.or_zero, BitVec.zero_or]; rfl

theorem EncodeInRow.ashiftHiOr : ∀ x c, EncodeInRow.Statement (.ashiftHiOr x c) := by
  intro x c
  show (encShiftCond standardCodes (.ashift .hi true) x c) &&& 0xFFF8F0#24 = 0x0E2800#24
  simp (disch := decide) only [encShiftCond, or_and_mask, put_and_mask, BitVec.or_zero, BitVec.zero_or]; rfl

theorem EncodeInRow.ashiftLo : ∀ x c, EncodeInRow.Statement (.ashiftLo x c) := by
  intro x c
  show (encShiftCond standardCodes (.ashift .lo false) x c) &&& 0xFFF8F0#24 = 0x0E3000#24
  simp (disch := decide) only [encShiftCond, or_and_mask, put_and_mask, BitVec.or_zero, BitVec.zero_or]; rfl

theorem EncodeInRow.ashiftLoOr : ∀ x c, EncodeInRow.Statement (.ashiftLoOr x c) := by
  intro x c
  show (encShiftCond standardCodes (.ashift .lo true) x c) &&& 0xFFF8F0#24 = 0x0E3800#24
  simp (disch := decide) only [encShiftCond, or_and_mask, put_and_mask, BitVec.or_zero, BitVec.zero_or]; rfl

theorem EncodeInRow.normHi : ∀ x c, EncodeInRow.Statement (.normHi x c) := by
  intro x c
  show (encShiftCond standardCodes (.norm .hi false) x c) &&& 0xFFF8F0#24 = 0x0E4000#24
  simp (disch := decide) only [encShiftCond, or_and_mask, put_and_mask, BitVec.or_zero, BitVec.zero_or]; rfl

theorem EncodeInRow.normHiOr : ∀ x c, EncodeInRow.Statement (.normHiOr x c) := by
  intro x c
  show (encShiftCond standardCodes (.norm .hi true) x c) &&& 0xFFF8F0#24 = 0x0E4800#24
  simp (disch := decide) only [encShiftCond, or_and_mask, put_and_mask, BitVec.or_zero, BitVec.zero_or]; rfl

theorem EncodeInRow.normLo : ∀ x c, EncodeInRow.Statement (.normLo x c) := by
  intro x c
  show (encShiftCond standardCodes (.norm .lo false) x c) &&& 0xFFF8F0#24 = 0x0E5000#24
  simp (disch := decide) only [encShiftCond, or_and_mask, put_and_mask, BitVec.or_zero, BitVec.zero_or]; rfl

theorem EncodeInRow.normLoOr : ∀ x c, EncodeInRow.Statement (.normLoOr x c) := by
  intro x c
  show (encShiftCond standardCodes (.norm .lo true) x c) &&& 0xFFF8F0#24 = 0x0E5800#24
  simp (disch := decide) only [encShiftCond, or_and_mask, put_and_mask, BitVec.or_zero, BitVec.zero_or]; rfl

theorem EncodeInRow.expHi : ∀ x c, EncodeInRow.Statement (.expHi x c) := by
  intro x c
  show (encShiftCond standardCodes .expHi x c) &&& 0xFFF8F0#24 = 0x0E6000#24
  simp (disch := decide) only [encShiftCond, or_and_mask, put_and_mask, BitVec.or_zero, BitVec.zero_or]; rfl

theorem EncodeInRow.expHix : ∀ x c, EncodeInRow.Statement (.expHix x c) := by
  intro x c
  show (encShiftCond standardCodes .expHix x c) &&& 0xFFF8F0#24 = 0x0E6800#24
  simp (disch := decide) only [encShiftCond, or_and_mask, put_and_mask, BitVec.or_zero, BitVec.zero_or]; rfl

theorem EncodeInRow.expLo : ∀ x c, EncodeInRow.Statement (.expLo x c) := by
  intro x c
  show (encShiftCond standardCodes .expLo x c) &&& 0xFFF8F0#24 = 0x0E7000#24
  simp (disch := decide) only [encShiftCond, or_and_mask, put_and_mask, BitVec.or_zero, BitVec.zero_or]; rfl

theorem EncodeInRow.expadj : ∀ x c, EncodeInRow.Statement (.expadj x c) := by
  intro x c
  show (encShiftCond standardCodes .expadj x c) &&& 0xFFF8F0#24 = 0x0E7800#24
  simp (disch := decide) only [encShiftCond, or_and_mask, put_and_mask, BitVec.or_zero, BitVec.zero_or]; rfl

theorem EncodeInRow.lshiftImmHi : ∀ x e, EncodeInRow.Statement (.lshiftImmHi x e) := by
  intro x e
  show (encShiftImm standardCodes (.lshift .hi false) x e) &&& 0xFFF800#24 = 0x0F0000#24
  simp (disch := decide) only [encShiftImm, or_and_mask, put_and_mask, BitVec.or_zero, BitVec.zero_or]; rfl

theorem EncodeInRow.lshiftImmHiOr : ∀ x e, EncodeInRow.Statement (.lshiftImmHiOr x e) := by
  intro x e
  show (encShiftImm standardCodes (.lshift .hi true) x e) &&& 0xFFF800#24 = 0x0F0800#24
  simp (disch := decide) only [encShiftImm, or_and_mask, put_and_mask, BitVec.or_zero, BitVec.zero_or]; rfl

theorem EncodeInRow.lshiftImmLo : ∀ x e, EncodeInRow.Statement (.lshiftImmLo x e) := by
  intro x e
  show (encShiftImm standardCodes (.lshift .lo false) x e) &&& 0xFFF800#24 = 0x0F1000#24
  simp (disch := decide) only [encShiftImm, or_and_mask, put_and_mask, BitVec.or_zero, BitVec.zero_or]; rfl

theorem EncodeInRow.lshiftImmLoOr : ∀ x e, EncodeInRow.Statement (.lshiftImmLoOr x e) := by
  intro x e
  show (encShiftImm standardCodes (.lshift .lo true) x e) &&& 0xFFF800#24 = 0x0F1800#24
  simp (disch := decide) only [encShiftImm, or_and_mask, put_and_mask, BitVec.or_zero, BitVec.zero_or]; rfl

theorem EncodeInRow.ashiftImmHi : ∀ x e, EncodeInRow.Statement (.ashiftImmHi x e) := by
  intro x e
  show (encShiftImm standardCodes (.ashift .hi false) x e) &&& 0xFFF800#24 = 0x0F2000#24
  simp (disch := decide) only [encShiftImm, or_and_mask, put_and_mask, BitVec.or_zero, BitVec.zero_or]; rfl

theorem EncodeInRow.ashiftImmHiOr : ∀ x e, EncodeInRow.Statement (.ashiftImmHiOr x e) := by
  intro x e
  show (encShiftImm standardCodes (.ashift .hi true) x e) &&& 0xFFF800#24 = 0x0F2800#24
  simp (disch := decide) only [encShiftImm, or_and_mask, put_and_mask, BitVec.or_zero, BitVec.zero_or]; rfl

theorem EncodeInRow.ashiftImmLo : ∀ x e, EncodeInRow.Statement (.ashiftImmLo x e) := by
  intro x e
  show (encShiftImm standardCodes (.ashift .lo false) x e) &&& 0xFFF800#24 = 0x0F3000#24
  simp (disch := decide) only [encShiftImm, or_and_mask, put_and_mask, BitVec.or_zero, BitVec.zero_or]; rfl

theorem EncodeInRow.ashiftImmLoOr : ∀ x e, EncodeInRow.Statement (.ashiftImmLoOr x e) := by
  intro x e
  show (encShiftImm standardCodes (.ashift .lo true) x e) &&& 0xFFF800#24 = 0x0F3800#24
  simp (disch := decide) only [encShiftImm, or_and_mask, put_and_mask, BitVec.or_zero, BitVec.zero_or]; rfl

theorem EncodeInRow.moveFromTop : ∀ d, EncodeInRow.Statement (.moveFromTop d) := by
  intro d
  show (put 16 0x0D#8 ||| put 10 (rgpCode standardCodes d) ||| put 8 3#2 ||| put 4 (regCode standardCodes d)
      ||| put 0 15#4) &&&
      0xFFF30F#24 = 0x0D030F#24
  simp (disch := decide) only [or_and_mask, put_and_mask, BitVec.or_zero, BitVec.zero_or]; rfl

theorem EncodeInRow.moveToTop : ∀ r, EncodeInRow.Statement (.moveToTop r) := by
  intro r
  show (put 16 0x0D#8 ||| put 10 3#2 ||| put 8 (rgpCode standardCodes r) ||| put 4 15#4 ||| put 0 (regCode
      standardCodes r)) &&&
      0xFFFCF0#24 = 0x0D0CF0#24
  simp (disch := decide) only [or_and_mask, put_and_mask, BitVec.or_zero, BitVec.zero_or]; rfl

theorem EncodeInRow.moveReg : ∀ d r, EncodeInRow.Statement (.moveReg d r) := by
  intro d r
  show (put 16 0x0D#8 ||| put 10 (rgpCode standardCodes d) ||| put 8 (rgpCode standardCodes r) ||| put 4
      (regCode standardCodes d) ||| put 0 (regCode standardCodes r)) &&&
      0xFFF000#24 = 0x0D0000#24
  simp (disch := decide) only [or_and_mask, put_and_mask, BitVec.or_zero, BitVec.zero_or]; rfl

theorem EncodeInRow.loadDreg : ∀ v d, EncodeInRow.Statement (.loadDreg v d) := by
  intro v d
  show (put 20 4#4 ||| put 4 v ||| put 0 (dregCode standardCodes d)) &&& 0xF00000#24 = 0x400000#24
  simp (disch := decide) only [or_and_mask, put_and_mask, BitVec.or_zero, BitVec.zero_or]; rfl

theorem EncodeInRow.loadReg : ∀ v d, EncodeInRow.Statement (.loadReg v d) := by
  intro v d
  show (put 20 3#4 ||| put 18 (rgpCode standardCodes d) ||| put 4 v ||| put 0 (regCode standardCodes d)) &&&
      0xF00000#24 = 0x300000#24
  simp (disch := decide) only [or_and_mask, put_and_mask, BitVec.or_zero, BitVec.zero_or]; rfl

theorem EncodeInRow.readDm : ∀ a d, EncodeInRow.Statement (.readDm a d) := by
  intro a d
  show (put 20 8#4 ||| put 18 (rgpCode standardCodes d) ||| put 4 a ||| put 0 (regCode standardCodes d)) &&&
      0xF00000#24 = 0x800000#24
  simp (disch := decide) only [or_and_mask, put_and_mask, BitVec.or_zero, BitVec.zero_or]; rfl

theorem EncodeInRow.writeDm : ∀ a r, EncodeInRow.Statement (.writeDm a r) := by
  intro a r
  show (put 20 9#4 ||| put 18 (rgpCode standardCodes r) ||| put 4 a ||| put 0 (regCode standardCodes r)) &&&
      0xF00000#24 = 0x900000#24
  simp (disch := decide) only [or_and_mask, put_and_mask, BitVec.or_zero, BitVec.zero_or]; rfl

theorem EncodeInRow.readDmInd : ∀ g d i m, EncodeInRow.Statement (.readDmInd g d i m) := by
  intro g d i m
  show (put 21 3#3 ||| put 20 (dagSelCode standardCodes g) ||| putAccess standardCodes d i m) &&&
      0xEFFF00#24 =
      0x600000#24
  simp (disch := decide) only [putAccess, or_and_mask, put_and_mask, BitVec.or_zero, BitVec.zero_or]; rfl

theorem EncodeInRow.writeDmInd : ∀ g r i m, EncodeInRow.Statement (.writeDmInd g r i m) := by
  intro g r i m
  show (put 21 3#3 ||| put 20 (dagSelCode standardCodes g) ||| put 19 1#1 ||| putAccess standardCodes r i m)
      &&&
      0xEFFF00#24 = 0x680000#24
  simp (disch := decide) only [putAccess, or_and_mask, put_and_mask, BitVec.or_zero, BitVec.zero_or]; rfl

theorem EncodeInRow.writeDmImm : ∀ g v i m, EncodeInRow.Statement (.writeDmImm g v i m) := by
  intro g v i m
  show (put 21 5#3 ||| put 20 (dagSelCode standardCodes g) ||| put 4 v ||| put 2 i ||| put 0 m) &&&
      0xE00000#24
      = 0xA00000#24
  simp (disch := decide) only [or_and_mask, put_and_mask, BitVec.or_zero, BitVec.zero_or]; rfl

theorem EncodeInRow.readPmInd : ∀ d i m, EncodeInRow.Statement (.readPmInd d i m) := by
  intro d i m
  show (put 20 5#4 ||| putAccess standardCodes d i m) &&& 0xFFFF00#24 = 0x500000#24
  simp (disch := decide) only [putAccess, or_and_mask, put_and_mask, BitVec.or_zero, BitVec.zero_or]; rfl

theorem EncodeInRow.writePmInd : ∀ r i m, EncodeInRow.Statement (.writePmInd r i m) := by
  intro r i m
  show (put 20 5#4 ||| put 19 1#1 ||| putAccess standardCodes r i m) &&& 0xFFFF00#24 = 0x580000#24
  simp (disch := decide) only [putAccess, or_and_mask, put_and_mask, BitVec.or_zero, BitVec.zero_or]; rfl

theorem EncodeInRow.readIo : ∀ a d, EncodeInRow.Statement (.readIo a d) := by
  intro a d
  show (put 16 0x01#8 ||| put 4 a ||| put 0 (dregCode standardCodes d)) &&& 0xFF8000#24 = 0x010000#24
  simp (disch := decide) only [or_and_mask, put_and_mask, BitVec.or_zero, BitVec.zero_or]; rfl

theorem EncodeInRow.writeIo : ∀ a r, EncodeInRow.Statement (.writeIo a r) := by
  intro a r
  show (put 16 0x01#8 ||| put 15 1#1 ||| put 4 a ||| put 0 (dregCode standardCodes r)) &&& 0xFF8000#24 = 0x018000#24
  simp (disch := decide) only [or_and_mask, put_and_mask, BitVec.or_zero, BitVec.zero_or]; rfl

theorem EncodeInRow.jump : ∀ a c, EncodeInRow.Statement (.jump a c) := by
  intro a c
  show (put 19 3#5 ||| put 4 a ||| put 0 (condCode standardCodes c)) &&& 0xFC0000#24 = 0x180000#24
  simp (disch := decide) only [or_and_mask, put_and_mask, BitVec.or_zero, BitVec.zero_or]; rfl

theorem EncodeInRow.call : ∀ a c, EncodeInRow.Statement (.call a c) := by
  intro a c
  show (put 19 3#5 ||| put 18 1#1 ||| put 4 a ||| put 0 (condCode standardCodes c)) &&& 0xFC0000#24 = 0x1C0000#24
  simp (disch := decide) only [or_and_mask, put_and_mask, BitVec.or_zero, BitVec.zero_or]; rfl

theorem EncodeInRow.jumpInd : ∀ i c, EncodeInRow.Statement (.jumpInd i c) := by
  intro i c
  show (put 16 0x0B#8 ||| put 6 i ||| put 0 (condCode standardCodes c)) &&& 0xFFFF30#24 = 0x0B0000#24
  simp (disch := decide) only [or_and_mask, put_and_mask, BitVec.or_zero, BitVec.zero_or]; rfl

theorem EncodeInRow.callInd : ∀ i c, EncodeInRow.Statement (.callInd i c) := by
  intro i c
  show (put 16 0x0B#8 ||| put 6 i ||| put 4 1#1 ||| put 0 (condCode standardCodes c)) &&& 0xFFFF30#24 = 0x0B0010#24
  simp (disch := decide) only [or_and_mask, put_and_mask, BitVec.or_zero, BitVec.zero_or]; rfl

theorem EncodeInRow.jumpFlag : ∀ a fic, EncodeInRow.Statement (.jumpFlag a fic) := by
  intro a fic
  show (put 16 0x03#8 ||| put 4 (a.extractLsb' 0 12) ||| put 2 (a.extractLsb' 12 2) ||| putBit 1 fic) &&&
      0xFF0001#24 = 0x030000#24
  simp (disch := decide) only [putBit, or_and_mask, put_and_mask, BitVec.or_zero, BitVec.zero_or]; rfl

theorem EncodeInRow.callFlag : ∀ a fic, EncodeInRow.Statement (.callFlag a fic) := by
  intro a fic
  show (put 16 0x03#8 ||| put 4 (a.extractLsb' 0 12) ||| put 2 (a.extractLsb' 12 2) ||| putBit 1 fic ||| put 0
      1#1) &&&
      0xFF0001#24 = 0x030001#24
  simp (disch := decide) only [putBit, or_and_mask, put_and_mask, BitVec.or_zero, BitVec.zero_or]; rfl

theorem EncodeInRow.flagOut : ∀ fl2 fl1 fl0 fo c, EncodeInRow.Statement (.flagOut fl2 fl1 fl0 fo c) := by
  intro fl2 fl1 fl0 fo c
  show (put 16 0x02#8 ||| put 10 (pinOpCode standardCodes fl2) ||| put 8 (pinOpCode standardCodes fl1) ||| put
      6 (pinOpCode standardCodes fl0) ||| put 4 (pinOpCode standardCodes fo) ||| put 0 (condCode standardCodes c)) &&&
      0xFFF000#24 = 0x020000#24
  simp (disch := decide) only [or_and_mask, put_and_mask, BitVec.or_zero, BitVec.zero_or]; rfl

theorem EncodeInRow.rts : ∀ c, EncodeInRow.Statement (.rts c) := by
  intro c
  show (put 16 0x0A#8 ||| put 0 (condCode standardCodes c)) &&& 0xFFFFF0#24 = 0x0A0000#24
  simp (disch := decide) only [or_and_mask, put_and_mask, BitVec.or_zero, BitVec.zero_or]; rfl

theorem EncodeInRow.rti : ∀ c, EncodeInRow.Statement (.rti c) := by
  intro c
  show (put 16 0x0A#8 ||| put 4 1#1 ||| put 0 (condCode standardCodes c)) &&& 0xFFFFF0#24 = 0x0A0010#24
  simp (disch := decide) only [or_and_mask, put_and_mask, BitVec.or_zero, BitVec.zero_or]; rfl

theorem EncodeInRow.doUntil : ∀ a t, EncodeInRow.Statement (.doUntil a t) := by
  intro a t
  show (put 18 5#6 ||| put 4 a ||| put 0 (termCode t)) &&& 0xFC0000#24 = 0x140000#24
  simp (disch := decide) only [or_and_mask, put_and_mask, BitVec.or_zero, BitVec.zero_or]; rfl

theorem EncodeInRow.idle : EncodeInRow.Statement .idle := by
  show (put 16 0x02#8 ||| put 15 1#1) &&& 0xFFFFFF#24 = 0x028000#24
  simp (disch := decide) only [or_and_mask, put_and_mask, BitVec.or_zero, BitVec.zero_or]; rfl

theorem EncodeInRow.idleN : ∀ n, EncodeInRow.Statement (.idleN n) := by
  intro n
  show (put 16 0x02#8 ||| put 15 1#1 ||| put 0 (slowDivCode standardCodes n)) &&& 0xFFFFF0#24 = 0x028000#24
  simp (disch := decide) only [or_and_mask, put_and_mask, BitVec.or_zero, BitVec.zero_or]; rfl

theorem EncodeInRow.stackControl : ∀ pp lp cp sp, EncodeInRow.Statement (.stackControl pp lp cp sp) := by
  intro pp lp cp sp
  show (put 16 0x04#8 ||| put 4 (popCode standardCodes pp) ||| put 3 (popCode standardCodes lp) ||| put 2
      (popCode standardCodes cp) ||| put 0 (stsOpCode standardCodes sp)) &&&
      0xFFFFE0#24 = 0x040000#24
  simp (disch := decide) only [or_and_mask, put_and_mask, BitVec.or_zero, BitVec.zero_or]; rfl

theorem EncodeInRow.enaInts : EncodeInRow.Statement .enaInts := by
  show (put 16 0x04#8 ||| put 0 0x0060#16) &&& 0xFFFFFF#24 = 0x040060#24
  simp (disch := decide) only [or_and_mask, put_and_mask, BitVec.or_zero, BitVec.zero_or]; rfl

theorem EncodeInRow.disInts : EncodeInRow.Statement .disInts := by
  show (put 16 0x04#8 ||| put 0 0x0040#16) &&& 0xFFFFFF#24 = 0x040040#24
  simp (disch := decide) only [or_and_mask, put_and_mask, BitVec.or_zero, BitVec.zero_or]; rfl

theorem EncodeInRow.modeControl : ∀ ti mm sat ol br sr gm,
    EncodeInRow.Statement (.modeControl ti mm sat ol br sr gm) := by
  intro ti mm sat ol br sr gm
  show (put 16 0x0C#8 ||| put 14 (modeOpCode standardCodes ti) ||| put 12 (modeOpCode standardCodes mm) ||| put
      10 (modeOpCode standardCodes sat) ||| put 8 (modeOpCode standardCodes ol) ||| put 6 (modeOpCode standardCodes br) ||| put 4 (modeOpCode standardCodes sr) ||| put 2 (modeOpCode standardCodes gm)) &&&
      0xFF0003#24 = 0x0C0000#24
  simp (disch := decide) only [or_and_mask, put_and_mask, BitVec.or_zero, BitVec.zero_or]; rfl

theorem EncodeInRow.modify : ∀ g i m, EncodeInRow.Statement (.modify g i m) := by
  intro g i m
  show (put 16 0x09#8 ||| put 4 (dagSelCode standardCodes g) ||| put 2 i ||| put 0 m) &&& 0xFFFFE0#24 = 0x090000#24
  simp (disch := decide) only [or_and_mask, put_and_mask, BitVec.or_zero, BitVec.zero_or]; rfl

theorem EncodeInRow.nop : EncodeInRow.Statement .nop := rfl

theorem EncodeInRow.compReadDm : ∀ g z op d i m, EncodeInRow.Statement (.compReadDm g z op d i m) := by
  intro g z op d i m
  show (put 21 3#3 ||| put 20 (dagSelCode standardCodes g) ||| put 18 (destCode standardCodes z) ||| putAluMac
      standardCodes op ||| putAccess standardCodes d i m) &&&
      0xE80000#24 = 0x600000#24
  cases op
  all_goals (simp (disch := decide) only [putAluMac, putAccess, or_and_mask, put_and_mask, BitVec.or_zero,
    BitVec.zero_or]; rfl)

theorem EncodeInRow.compReadPm : ∀ z op d i m, EncodeInRow.Statement (.compReadPm z op d i m) := by
  intro z op d i m
  show (put 20 5#4 ||| put 18 (destCode standardCodes z) ||| putAluMac standardCodes op ||| putAccess
      standardCodes d i m) &&&
      0xF80000#24 = 0x500000#24
  cases op
  all_goals (simp (disch := decide) only [putAluMac, putAccess, or_and_mask, put_and_mask, BitVec.or_zero,
    BitVec.zero_or]; rfl)

theorem EncodeInRow.shiftReadDm : ∀ g f x d i m, EncodeInRow.Statement (.shiftReadDm g f x d i m) := by
  intro g f x d i m
  show (put 17 9#7 ||| put 16 (dagSelCode standardCodes g) ||| put 11 (shiftFnCode f) ||| put 8 (shiftXopCode
      standardCodes x) ||| putAccess standardCodes d i m) &&&
      0xFE8000#24 = 0x120000#24
  simp (disch := decide) only [putAccess, or_and_mask, put_and_mask, BitVec.or_zero, BitVec.zero_or]; rfl

theorem EncodeInRow.shiftReadPm : ∀ f x d i m, EncodeInRow.Statement (.shiftReadPm f x d i m) := by
  intro f x d i m
  show (put 16 0x11#8 ||| put 11 (shiftFnCode f) ||| put 8 (shiftXopCode standardCodes x) ||| putAccess
      standardCodes d i m) &&&
      0xFF8000#24 = 0x110000#24
  simp (disch := decide) only [putAccess, or_and_mask, put_and_mask, BitVec.or_zero, BitVec.zero_or]; rfl

theorem EncodeInRow.compMove : ∀ z op d r, EncodeInRow.Statement (.compMove z op d r) := by
  intro z op d r
  rcases op with _ | o
  · show (put 19 5#5 ||| put 18 (destCode standardCodes z) ||| 0#24 ||| put 4 (dregCode standardCodes d) ||| put 0 (dregCode standardCodes r)) &&&
      0xF80000#24 =
      0x280000#24
    simp (disch := decide) only [or_and_mask, put_and_mask, BitVec.or_zero, BitVec.zero_and]; rfl
  · show (put 19 5#5 ||| put 18 (destCode standardCodes z) ||| putAluMac standardCodes o ||| put 4 (dregCode standardCodes d) ||| put 0 (dregCode standardCodes r)) &&&
      0xF80000#24 = 0x280000#24
    cases o
    all_goals (simp (disch := decide) only [putAluMac, or_and_mask, put_and_mask, BitVec.or_zero]; rfl)

theorem EncodeInRow.shiftMove : ∀ f x d r, EncodeInRow.Statement (.shiftMove f x d r) := by
  intro f x d r
  show (put 16 0x10#8 ||| put 11 (shiftFnCode f) ||| put 8 (shiftXopCode standardCodes x) ||| put 4 (dregCode
      standardCodes d) ||| put 0 (dregCode standardCodes r)) &&&
      0xFF8000#24 = 0x100000#24
  simp (disch := decide) only [or_and_mask, put_and_mask, BitVec.or_zero, BitVec.zero_or]; rfl

theorem EncodeInRow.compWriteDm : ∀ g z op r i m, EncodeInRow.Statement (.compWriteDm g z op r i m) := by
  intro g z op r i m
  show (put 21 3#3 ||| put 20 (dagSelCode standardCodes g) ||| put 19 1#1 ||| put 18 (destCode standardCodes z)
      ||| putAluMac standardCodes op ||| putAccess standardCodes r i m) &&&
      0xE80000#24 = 0x680000#24
  cases op
  all_goals (simp (disch := decide) only [putAluMac, putAccess, or_and_mask, put_and_mask, BitVec.or_zero,
    BitVec.zero_or]; rfl)

theorem EncodeInRow.compWritePm : ∀ z op r i m, EncodeInRow.Statement (.compWritePm z op r i m) := by
  intro z op r i m
  show (put 20 5#4 ||| put 19 1#1 ||| put 18 (destCode standardCodes z) ||| putAluMac standardCodes op |||
      putAccess standardCodes r i m) &&&
      0xF80000#24 = 0x580000#24
  cases op
  all_goals (simp (disch := decide) only [putAluMac, putAccess, or_and_mask, put_and_mask, BitVec.or_zero,
    BitVec.zero_or]; rfl)

theorem EncodeInRow.shiftWriteDm : ∀ g f x r i m, EncodeInRow.Statement (.shiftWriteDm g f x r i m) := by
  intro g f x r i m
  show (put 17 9#7 ||| put 16 (dagSelCode standardCodes g) ||| put 15 1#1 ||| put 11 (shiftFnCode f) ||| put 8
      (shiftXopCode standardCodes x) ||| putAccess standardCodes r i m) &&&
      0xFE8000#24 = 0x128000#24
  simp (disch := decide) only [putAccess, or_and_mask, put_and_mask, BitVec.or_zero, BitVec.zero_or]; rfl

theorem EncodeInRow.shiftWritePm : ∀ f x r i m, EncodeInRow.Statement (.shiftWritePm f x r i m) := by
  intro f x r i m
  show (put 16 0x11#8 ||| put 15 1#1 ||| put 11 (shiftFnCode f) ||| put 8 (shiftXopCode standardCodes x) |||
      putAccess standardCodes r i m) &&&
      0xFF8000#24 = 0x118000#24
  simp (disch := decide) only [putAccess, or_and_mask, put_and_mask, BitVec.or_zero, BitVec.zero_or]; rfl

theorem EncodeInRow.dualRead : ∀ pd dd pi pm di dm, EncodeInRow.Statement (.dualRead pd dd pi pm di dm) := by
  intro pd dd pi pm di dm
  show (putDual standardCodes pd dd pi pm di dm) &&& 0xC3FF00#24 = 0xC00000#24
  simp (disch := decide) only [putDual, or_and_mask, put_and_mask, BitVec.or_zero, BitVec.zero_or]; rfl

theorem EncodeInRow.compDualRead : ∀ pd dd op pi pm di dm,
    EncodeInRow.Statement (.compDualRead pd dd op pi pm di dm) := by
  intro pd dd op pi pm di dm
  show (putDual standardCodes pd dd pi pm di dm ||| putAluMac standardCodes op) &&& 0xC00000#24 = 0xC00000#24
  cases op
  all_goals (simp (disch := decide) only [putDual, putAluMac, or_and_mask, put_and_mask, BitVec.or_zero,
    BitVec.zero_or]; rfl)

theorem EncodeInRow.unused : ∀ u, EncodeInRow.Statement (.unused u) := by
  intro u
  show (put 16 0x08#8 ||| put 0 u) &&& 0xFF0000#24 = 0x080000#24
  simp (disch := decide) only [or_and_mask, put_and_mask, BitVec.or_zero, BitVec.zero_or]; rfl

end Sys2Proof.Laws
end

