-- ==== Sys2Proof/Tests/Slice0.lean ====
section
/-! SUPPORT. Tests: the decoding of one word for each constructor, single steps on values that spec/95_test_vectors.md
or a rule gives, the well-formedness smoke tests, and a witness for the hypotheses of each obligation that has any. -/

namespace Sys2Proof.Machine.Tests

open Sys2Proof Sys2Proof.Machine Sys2Proof.Machine.Claims

/-- The next state of an answer. -/
def nextOf : Answer → Option State
  | .next t => some t
  | .fault _ => none
  | .refused _ => none

/-- The fault of an answer. -/
def faultOf : Answer → Option Fault
  | .next _ => none
  | .fault f => some f
  | .refused _ => none

/-- The state after reset with a primary bank. -/
def withBank (b : Bank) : State := { State.reset with primary := b }

/-- ALU operands in AX0 and AY0, the carry flag, and MSTAT. -/
def aluIn (x y : Word) (c : Bool) (ms : BitVec 7) : State :=
  { withBank { Bank.reset with ax0 := x, ay0 := y } with astat := if c then 8 else 0, mstat := ms }

/-- AR and ASTAT of the next state. -/
def arAndFlags (r : Answer) : Option (Word × BitVec 8) := (nextOf r).map fun t => (t.primary.ar, t.astat)

/-- MAC operands in MX0 and MY0, MR, and MSTAT. -/
def macIn (x y : Word) (mr : Acc) (ms : BitVec 7) : State :=
  { withBank { Bank.reset with
      mx0 := x, my0 := y, mr2 := mr.extractLsb' 32 8, mr1 := mr.extractLsb' 16 16, mr0 := mr.extractLsb' 0 16 } with
    mstat := ms }

/-- MR and MV of the next state. -/
def mrAndMv (r : Answer) : Option (Acc × Bool) := (nextOf r).map fun t => (mrOf t.primary, flagMv t)

/-- A divide step's operands: AX0, AY0, AF and ASTAT. -/
def divIn (x ay0 af : Word) (st : BitVec 8) : State :=
  { withBank { Bank.reset with ax0 := x, ay0 := ay0, af := af } with astat := st }

/-- AF, AY0 and AQ of the next state. -/
def divOut (r : Answer) : Option (Word × Word × Bool) := (nextOf r).map fun t => (t.primary.af, t.primary.ay0, flagAq t)

/-- Shifter operands: SI, SE, SR and ASTAT. -/
def shiftIn (x : Word) (se : BitVec 8) (sr : BitVec 32) (st : BitVec 8) : State :=
  { withBank { Bank.reset with si := x, se := se, sr1 := sr.extractLsb' 16 16, sr0 := sr.extractLsb' 0 16 } with
    astat := st }

/-- SR of the next state. -/
def srOut (r : Answer) : Option (BitVec 32) := (nextOf r).map fun t => srOf t.primary

/-- SE and SS of the next state. -/
def expOut (r : Answer) : Option (BitVec 8 × Bool) := (nextOf r).map fun t => (t.primary.se, flagSs t)

/-- The state after reset with the two memories. -/
def memIn (pm : Memory 24) (dm : Memory 16) : State := { State.reset with mem := { pm := pm, dm := dm, pmWritten := none } }

/-- One I register with its L register, and one M register, set. -/
def withDag (a : DagIdx) (i : Addr) (b : DagIdx) (m len : Addr) (s : State) : State := setL a len (setM b m (setI a i s))

/-- The state after reset with a PC stack. -/
def withPcStack (q : List Addr) : State := { State.reset with seq := { State.reset.seq with pcStack := q } }


/-- Words written out from R120, type 9 register form; AMF by R143, Xop R146, Yop R147, COND R151. -/
theorem test_decode_alu_register_1 :
    decode 0b001000100000000000000000#24 = .ok (.aluPassY .result .ay0 .ax0 .eq) ∧
    decode 0b001001100010101100000001#24 = .ok (.aluIncY .feedback .ay1 .mr0 .ne) ∧
    decode 0b001000100101011000000010#24 = .ok (.aluAddC .result .af .sr0 .gt) ∧
    decode 0b001001100111100100000011#24 = .ok (.aluAdd .feedback .zero .ax1 .le) ∧
    decode 0b001000101000010000000100#24 = .ok (.aluNotY .result .ay0 .mr1 .lt) ∧
    decode 0b001001101010111100000101#24 = .ok (.aluNegY .feedback .ay1 .sr1 .ge) ∧
    decode 0b001000101101001000000110#24 = .ok (.aluSubXYBorrow .result .af .ar .av) ∧
    decode 0b001001101111110100000111#24 = .ok (.aluSubXY .feedback .zero .mr2 .notAv) := by decide

/-- Words written out from R120, type 9 register form; AMF by R143, Xop R146, Yop R147, COND R151. -/
theorem test_decode_alu_register_2 :
    decode 0b001000110000000000001000#24 = .ok (.aluDecY .result .ay0 .ax0 .ac) ∧
    decode 0b001001110010101100001001#24 = .ok (.aluSubYX .feedback .ay1 .mr0 .notAc) ∧
    decode 0b001000110101011000001010#24 = .ok (.aluSubYXBorrow .result .af .sr0 .neg) ∧
    decode 0b001001110111100100001011#24 = .ok (.aluNotX .feedback .zero .ax1 .pos) ∧
    decode 0b001000111000010000001100#24 = .ok (.aluAnd .result .ay0 .mr1 .mv) ∧
    decode 0b001001111010111100001101#24 = .ok (.aluOr .feedback .ay1 .sr1 .notMv) ∧
    decode 0b001000111101001000001110#24 = .ok (.aluXor .result .af .ar .notCe) ∧
    decode 0b001001111111110100001111#24 = .ok (.aluAbs .feedback .zero .mr2 .always) := by decide

/-- Words written out from R120, type 9 constant form; YY, CC, BO by R152. -/
theorem test_decode_alu_constant_1 :
    decode 0b001000100110110111010011#24 = .ok (.aluAddK .result 7 false .mr2 .le) ∧
    decode 0b001001100101101010010110#24 = .ok (.aluAddKC .feedback 14 false .ar .av) ∧
    decode 0b001000101110111101111001#24 = .ok (.aluSubXK .result 5 true .sr1 .notAc) ∧
    decode 0b001001101101110000011100#24 = .ok (.aluSubXKBorrow .feedback 12 false .mr1 .mv) ∧
    decode 0b001000110010000111011111#24 = .ok (.aluSubKX .result 3 false .ax1 .always) ∧
    decode 0b001001110101011010110010#24 = .ok (.aluSubKXBorrow .feedback 10 true .sr0 .gt) ∧
    decode 0b001000100000001101010101#24 = .ok (.aluPassK .result 1 false .mr0 .ge) ∧
    decode 0b001001100011000000011000#24 = .ok (.aluPassKInc .feedback 8 false .ax0 .ac) := by decide

/-- Words written out from R120, type 9 constant form; YY, CC, BO by R152. -/
theorem test_decode_alu_constant_2 :
    decode 0b001000110001110111111011#24 = .ok (.aluPassKDec .result 15 true .mr2 .pos) ∧
    decode 0b001001111000101010011110#24 = .ok (.aluTstbit .feedback 6 .ar .notCe) ∧
    decode 0b001000111001111101110001#24 = .ok (.aluClrbit .result 13 .sr1 .ne) ∧
    decode 0b001001111010110000010100#24 = .ok (.aluSetbit .feedback 4 .mr1 .lt) ∧
    decode 0b001000111011000111110111#24 = .ok (.aluOrNotBit .result 11 .ax1 .notAv) ∧
    decode 0b001001111100011010011010#24 = .ok (.aluTglbit .feedback 2 .sr0 .neg) ∧
    decode 0b001000111101001101111101#24 = .ok (.aluXorNotBit .result 9 .mr0 .notMv) ∧
    decode 0b001001101000000000010000#24 = .ok (.aluNotK .feedback 0 false .ax0 .eq) := by decide

/-- Words written out from R120, type 9 constant form; YY, CC, BO by R152. -/
theorem test_decode_alu_constant_3 :
    decode 0b001000101010110111010011#24 = .ok (.aluNegK .result 7 false .mr2 .le) ∧
    decode 0b001001110111101010110110#24 = .ok (.aluNotXK .feedback 14 true .ar .av) ∧
    decode 0b001000111110111101011001#24 = .ok (.aluAbsK .result 5 false .sr1 .notAc) := by decide

/-- Words written out from R135, R134, R119, R136. -/
theorem test_decode_divide_none_sat :
    decode 0b000001100000110000000000#24 = .ok (.divs .ay1 .mr1) ∧
    decode 0b000001110001011100000000#24 = .ok (.divq .sr1) ∧
    decode 0b001010111000110110101010#24 = .ok (.noneAlu .andXY .ay1 .mr2) ∧
    decode 0b000001010000000000000000#24 = .ok (.satMr) := by decide

/-- Words written out from R120, type 9 register and squaring forms. -/
theorem test_decode_mac_1 :
    decode 0b001000000010000100001111#24 = .ok (.macMulRnd .result .my0 .mx1 .always) ∧
    decode 0b001001001001110000001110#24 = .ok (.macMulSs .feedback .zero .mr1 .notCe) ∧
    decode 0b001000001011011100001101#24 = .ok (.macMulSu .result .mf .sr1 .notMv) ∧
    decode 0b001001001100101000001100#24 = .ok (.macMulUs .feedback .my1 .ar .mv) ∧
    decode 0b001000001110010100001011#24 = .ok (.macMulUu .result .my0 .mr2 .pos) ∧
    decode 0b001001000101100000001010#24 = .ok (.macAddRnd .feedback .zero .mx0 .neg) ∧
    decode 0b001000010001001100001001#24 = .ok (.macAddSs .result .mf .mr0 .notAc) ∧
    decode 0b001001010010111000001000#24 = .ok (.macAddSu .feedback .my1 .sr0 .ac) := by decide

/-- Words written out from R120, type 9 register and squaring forms. -/
theorem test_decode_mac_2 :
    decode 0b001000010100000100000111#24 = .ok (.macAddUs .result .my0 .mx1 .notAv) ∧
    decode 0b001001010111110000000110#24 = .ok (.macAddUu .feedback .zero .mr1 .av) ∧
    decode 0b001000000111011100000101#24 = .ok (.macSubRnd .result .mf .sr1 .ge) ∧
    decode 0b001001011000101000000100#24 = .ok (.macSubSs .feedback .my1 .ar .lt) ∧
    decode 0b001000011010010100000011#24 = .ok (.macSubSu .result .my0 .mr2 .le) ∧
    decode 0b001001011101100000000010#24 = .ok (.macSubUs .feedback .zero .mx0 .gt) ∧
    decode 0b001000011111001100000001#24 = .ok (.macSubUu .result .mf .mr0 .ne) ∧
    decode 0b001001000010000000010011#24 = .ok (.macSqrMulRnd .feedback .mx0 .le) := by decide

/-- Words written out from R120, type 9 register and squaring forms. -/
theorem test_decode_mac_3 :
    decode 0b001000001000000100010100#24 = .ok (.macSqrMulSs .result .mx1 .lt) ∧
    decode 0b001001001110001000010101#24 = .ok (.macSqrMulUu .feedback .ar .ge) ∧
    decode 0b001000000100001100010110#24 = .ok (.macSqrAddRnd .result .mr0 .av) ∧
    decode 0b001001010000010000010111#24 = .ok (.macSqrAddSs .feedback .mr1 .notAv) ∧
    decode 0b001000010110010100011000#24 = .ok (.macSqrAddUu .result .mr2 .ac) ∧
    decode 0b001001000110011000011001#24 = .ok (.macSqrSubRnd .feedback .sr0 .notAc) ∧
    decode 0b001000011000011100011010#24 = .ok (.macSqrSubSs .result .sr1 .neg) ∧
    decode 0b001001011110000000011011#24 = .ok (.macSqrSubUu .feedback .mx0 .pos) := by decide

/-- Words written out from R127 and R126, types 16 and 15; SF by R144, Xop by R146. -/
theorem test_decode_shifter_1 :
    decode 0b000011100000000000000010#24 = .ok (.lshiftHi .si .gt) ∧
    decode 0b000011100000101000000111#24 = .ok (.lshiftHiOr .ar .notAv) ∧
    decode 0b000011100001001100001100#24 = .ok (.lshiftLo .mr0 .mv) ∧
    decode 0b000011100001110000000001#24 = .ok (.lshiftLoOr .mr1 .ne) ∧
    decode 0b000011100010010100000110#24 = .ok (.ashiftHi .mr2 .av) ∧
    decode 0b000011100010111000001011#24 = .ok (.ashiftHiOr .sr0 .pos) ∧
    decode 0b000011100011011100000000#24 = .ok (.ashiftLo .sr1 .eq) ∧
    decode 0b000011100011100000000101#24 = .ok (.ashiftLoOr .si .ge) := by decide

/-- Words written out from R127 and R126, types 16 and 15; SF by R144, Xop by R146. -/
theorem test_decode_shifter_2 :
    decode 0b000011100100001000001010#24 = .ok (.normHi .ar .neg) ∧
    decode 0b000011100100101100001111#24 = .ok (.normHiOr .mr0 .always) ∧
    decode 0b000011100101010000000100#24 = .ok (.normLo .mr1 .lt) ∧
    decode 0b000011100101110100001001#24 = .ok (.normLoOr .mr2 .notAc) ∧
    decode 0b000011100110011000001110#24 = .ok (.expHi .sr0 .notCe) ∧
    decode 0b000011100110111100000011#24 = .ok (.expHix .sr1 .le) ∧
    decode 0b000011100111000000001000#24 = .ok (.expLo .si .ac) ∧
    decode 0b000011100111101000001101#24 = .ok (.expadj .ar .notMv) := by decide

/-- Words written out from R127 and R126, types 16 and 15; SF by R144, Xop by R146. -/
theorem test_decode_shifter_3 :
    decode 0b000011110000001010000000#24 = .ok (.lshiftImmHi .ar 128) ∧
    decode 0b000011110000110001111111#24 = .ok (.lshiftImmHiOr .mr1 127) ∧
    decode 0b000011110001011011111111#24 = .ok (.lshiftImmLo .sr0 255) ∧
    decode 0b000011110001100000000000#24 = .ok (.lshiftImmLoOr .si 0) ∧
    decode 0b000011110010001100000001#24 = .ok (.ashiftImmHi .mr0 1) ∧
    decode 0b000011110010110111111010#24 = .ok (.ashiftImmHiOr .mr2 250) ∧
    decode 0b000011110011011100010000#24 = .ok (.ashiftImmLo .sr1 16) ∧
    decode 0b000011110011101011100001#24 = .ok (.ashiftImmLoOr .ar 225) := by decide

/-- Words written out from R128, R117, R118, R114, R115, R113, R116, R140; registers by R149, R150. -/
theorem test_decode_move_1 :
    decode 0b000011010000101110101111#24 = .ok (.moveFromTop (.l 6)) ∧
    decode 0b000011010000110111110110#24 = .ok (.moveToTop (.m 2)) ∧
    decode 0b000011010000111111010010#24 = .ok (.moveReg .owrcntr .sstat) ∧
    decode 0b010010101011110011010111#24 = .ok (.loadDreg 0xABCD .my1) ∧
    decode 0b001111100000000001010101#24 = .ok (.loadReg 0x2005 .cntr) ∧
    decode 0b100001010010001101000111#24 = .ok (.readDm 0x1234 (.m 3)) ∧
    decode 0b100111111111111111110110#24 = .ok (.writeDm 0x3FFF .sb) ∧
    decode 0b011100000000000011101001#24 = .ok (.readDmInd .dag2 .sr0 2 1) := by decide

/-- Words written out from R128, R117, R118, R114, R115, R113, R116, R140; registers by R149, R150. -/
theorem test_decode_move_2 :
    decode 0b011010000000000010010111#24 = .ok (.writeDmInd .dag1 .se 1 3) ∧
    decode 0b101110000000000000011100#24 = .ok (.writeDmImm .dag2 0x8001 3 0) ∧
    decode 0b010100000000000011010010#24 = .ok (.readPmInd .mr2 0 2) ∧
    decode 0b010110000000000000011111#24 = .ok (.writePmInd .ax1 3 3) ∧
    decode 0b000000010111111111110111#24 = .ok (.readIo 2047 .my1) ∧
    decode 0b000000011000000101110000#24 = .ok (.writeIo 23 .ax0) := by decide

/-- Words written out from R121, R130, R138, R139, R131, R122, R142; TERM by R145, FO by R155, DV by R158. -/
theorem test_decode_flow_1 :
    decode 0b000110101010101111000001#24 = .ok (.jump 0x2ABC .ne) ∧
    decode 0b000111101010101111001111#24 = .ok (.call 0x2ABC .always) ∧
    decode 0b000010110000000010000010#24 = .ok (.jumpInd 2 .gt) ∧
    decode 0b000010110000000011011000#24 = .ok (.callInd 3 .ac) ∧
    decode 0b000000111010101111001010#24 = .ok (.jumpFlag 0x2ABC true) ∧
    decode 0b000000111010101111001001#24 = .ok (.callFlag 0x2ABC false) ∧
    decode 0b000000100000011011001100#24 = .ok (.flagOut .toggle .reset .set .keep .mv) ∧
    decode 0b000010100000000000000011#24 = .ok (.rts .le) := by decide

/-- Words written out from R121, R130, R138, R139, R131, R122, R142; TERM by R145, FO by R155, DV by R158. -/
theorem test_decode_flow_2 :
    decode 0b000010100000000000011110#24 = .ok (.rti .notCe) ∧
    decode 0b000101101010101111000101#24 = .ok (.doUntil 0x2ABC .lt) ∧
    decode 0b000000101000000000000000#24 = .ok (.idle) ∧
    decode 0b000000101000000000000100#24 = .ok (.idleN .n64) := by decide

/-- Words written out from R137, R129, R132, R141, R133; fields by R156, R157, R154. -/
theorem test_decode_misc :
    decode 0b000001000000000000001110#24 = .ok (.stackControl false true true .push) ∧
    decode 0b000001000000000001100000#24 = .ok (.enaInts) ∧
    decode 0b000001000000000001000000#24 = .ok (.disInts) ∧
    decode 0b000011001110000111101100#24 = .ok (.modeControl .ena .dis .keep .keepAlt .ena .dis .ena) ∧
    decode 0b000010010000000000011001#24 = .ok (.modify .dag2 2 1) ∧
    decode 0b000000000000000000000000#24 = .ok (.nop) ∧
    decode 0b000010001011111011101111#24 = .ok (.unused 0xBEEF) := by decide

/-- Words written out from R115, R116, R123, R124, R119, R125, R112; PD and DD by R153. -/
theorem test_decode_multi_1 :
    decode 0b011101101110101110001110#24 = .ok (.compReadDm .dag2 .feedback (.alu .subXY .ay1 .mr0) .si 3 2) ∧
    decode 0b010100010011000111110100#24 = .ok (.compReadPm .result (.mac ⟨.add, .su⟩ .mf .mx1) .sr1 1 0) ∧
    decode 0b000100110111010101011011#24 = .ok (.shiftReadDm .dag2 .expLo .mr2 .ay1 2 3) ∧
    decode 0b000100010100111001100001#24 = .ok (.shiftReadPm (.norm .hi true) .sr0 .my0 0 1) ∧
    decode 0b001011111111100110011011#24 = .ok (.compMove .feedback (some (.alu .absX .zero .ax1)) .se .mr0) ∧
    decode 0b000100000011000010101111#24 = .ok (.shiftMove (.ashift .lo false) .si .ar .sr1) ∧
    decode 0b011010001100111100100011#24 = .ok (.compWriteDm .dag1 .result (.mac ⟨.mul, .us⟩ .my1 .sr1) .mx0 0 3) ∧
    decode 0b010111110101001011001010#24 = .ok (.compWritePm .feedback (.alu .subYXBorrow .af .ar) .mr1 2 2) := by decide

/-- Words written out from R115, R116, R123, R124, R119, R125, R112; PD and DD by R153. -/
theorem test_decode_multi_2 :
    decode 0b000100101001110011100101#24 = .ok (.shiftWriteDm .dag1 (.lshift .lo true) .mr1 .sr0 1 1) ∧
    decode 0b000100011111101010011100#24 = .ok (.shiftWritePm .expadj .ar .se 3 0) ∧
    decode 0b111001000000000001101100#24 = .ok (.dualRead .my0 .ax1 1 2 3 0) ∧
    decode 0b110111011111110111100100#24 = .ok (.compDualRead .ay1 .mx1 (.mac ⟨.sub, .uu⟩ .zero .mr2) 3 2 1 0) := by decide

/-- 95_test_vectors 2.1, `PASS y` under AR_SAT. -/
theorem test_aluPassY_1 :
    arAndFlags (exec (.aluPassY .result .ay0 .ax0 .always) (aluIn 0 0x0000 false 8)) = some (0x0000, 0x01) := by decide

/-- 95_test_vectors 2.1, `PASS y`. -/
theorem test_aluPassY_2 :
    arAndFlags (exec (.aluPassY .result .ay0 .ax0 .always) (aluIn 0 0x8001 false 0)) = some (0x8001, 0x02) := by decide

/-- 95_test_vectors 2.1, `y + 1` under AR_SAT. -/
theorem test_aluIncY_1 :
    arAndFlags (exec (.aluIncY .result .ay0 .ax0 .always) (aluIn 0 0x7FFF false 8)) = some (0x7FFF, 0x06) := by decide

/-- 95_test_vectors 2.1, `y + 1`. -/
theorem test_aluIncY_2 :
    arAndFlags (exec (.aluIncY .result .ay0 .ax0 .always) (aluIn 0 0x0000 false 0)) = some (0x0001, 0x00) := by decide

/-- 95_test_vectors 2.1, `x + y + C` under AR_SAT. -/
theorem test_aluAddC_1 :
    arAndFlags (exec (.aluAddC .result .ay0 .ax0 .always) (aluIn 0x7FFE 0x0001 true 8)) = some (0x7FFF, 0x06) := by decide

/-- 95_test_vectors 2.1, `x + y + C`. -/
theorem test_aluAddC_2 :
    arAndFlags (exec (.aluAddC .result .ay0 .ax0 .always) (aluIn 0x0005 0x0005 false 0)) = some (0x000A, 0x00) := by decide

/-- 95_test_vectors 2.1, `x + y` under AR_SAT. -/
theorem test_aluAdd_1 :
    arAndFlags (exec (.aluAdd .result .ay0 .ax0 .always) (aluIn 0x8000 0x8000 false 8)) = some (0x8000, 0x0D) := by decide

/-- 95_test_vectors 2.1, `x + y`. -/
theorem test_aluAdd_2 :
    arAndFlags (exec (.aluAdd .result .ay0 .ax0 .always) (aluIn 0x1234 0x0000 false 0)) = some (0x1234, 0x00) := by decide

/-- 95_test_vectors 2.1, `NOT y` under AR_SAT. -/
theorem test_aluNotY_1 :
    arAndFlags (exec (.aluNotY .result .ay0 .ax0 .always) (aluIn 0 0x0000 false 8)) = some (0xFFFF, 0x02) := by decide

/-- 95_test_vectors 2.1, `NOT y`. -/
theorem test_aluNotY_2 :
    arAndFlags (exec (.aluNotY .result .ay0 .ax0 .always) (aluIn 0 0xFFFF false 0)) = some (0x0000, 0x01) := by decide

/-- 95_test_vectors 2.1, `–y` under AR_SAT. -/
theorem test_aluNegY_1 :
    arAndFlags (exec (.aluNegY .result .ay0 .ax0 .always) (aluIn 0 0x8000 false 8)) = some (0x7FFF, 0x06) := by decide

/-- 95_test_vectors 2.1, `–y`. -/
theorem test_aluNegY_2 :
    arAndFlags (exec (.aluNegY .result .ay0 .ax0 .always) (aluIn 0 0x0001 false 0)) = some (0xFFFF, 0x02) := by decide

/-- 95_test_vectors 2.1, `x – y + C – 1` under AR_SAT. -/
theorem test_aluSubXYBorrow_1 :
    arAndFlags (exec (.aluSubXYBorrow .result .ay0 .ax0 .always) (aluIn 0x8000 0x0000 false 8)) = some (0x8000, 0x0C) := by decide

/-- 95_test_vectors 2.1, `x – y + C – 1`. -/
theorem test_aluSubXYBorrow_2 :
    arAndFlags (exec (.aluSubXYBorrow .result .ay0 .ax0 .always) (aluIn 0x0000 0xFFFF false 0)) = some (0x0000, 0x01) := by decide

/-- 95_test_vectors 2.1, `x – y` under AR_SAT. -/
theorem test_aluSubXY_1 :
    arAndFlags (exec (.aluSubXY .result .ay0 .ax0 .always) (aluIn 0x8000 0x0001 false 8)) = some (0x8000, 0x0C) := by decide

/-- 95_test_vectors 2.1, `x – y`. -/
theorem test_aluSubXY_2 :
    arAndFlags (exec (.aluSubXY .result .ay0 .ax0 .always) (aluIn 0x0005 0x0006 false 0)) = some (0xFFFF, 0x02) := by decide

/-- 95_test_vectors 2.1, `y – 1` under AR_SAT. -/
theorem test_aluDecY_1 :
    arAndFlags (exec (.aluDecY .result .ay0 .ax0 .always) (aluIn 0 0x8000 false 8)) = some (0x8000, 0x0C) := by decide

/-- 95_test_vectors 2.1, `y – 1`. -/
theorem test_aluDecY_2 :
    arAndFlags (exec (.aluDecY .result .ay0 .ax0 .always) (aluIn 0 0x0000 false 0)) = some (0xFFFF, 0x02) := by decide

/-- 95_test_vectors 2.1, `y – x` under AR_SAT. -/
theorem test_aluSubYX_1 :
    arAndFlags (exec (.aluSubYX .result .ay0 .ax0 .always) (aluIn 0x0001 0x8000 false 8)) = some (0x8000, 0x0C) := by decide

/-- 95_test_vectors 2.1, `y – x`. -/
theorem test_aluSubYX_2 :
    arAndFlags (exec (.aluSubYX .result .ay0 .ax0 .always) (aluIn 0xFFF9 0x0000 false 0)) = some (0x0007, 0x00) := by decide

/-- 95_test_vectors 2.1, `y – x + C – 1` under AR_SAT. -/
theorem test_aluSubYXBorrow_1 :
    arAndFlags (exec (.aluSubYXBorrow .result .ay0 .ax0 .always) (aluIn 0x0005 0x0006 true 8)) = some (0x0001, 0x08) := by decide

/-- 95_test_vectors 2.1, `y – x + C – 1`. -/
theorem test_aluSubYXBorrow_2 :
    arAndFlags (exec (.aluSubYXBorrow .result .ay0 .ax0 .always) (aluIn 0x0005 0x0005 false 0)) = some (0xFFFF, 0x02) := by decide

/-- 95_test_vectors 2.1, `NOT x` under AR_SAT. -/
theorem test_aluNotX_1 :
    arAndFlags (exec (.aluNotX .result .ay0 .ax0 .always) (aluIn 0x00FF 0 false 8)) = some (0xFF00, 0x02) := by decide

/-- 95_test_vectors 2.1, `x AND y` under AR_SAT. -/
theorem test_aluAnd_1 :
    arAndFlags (exec (.aluAnd .result .ay0 .ax0 .always) (aluIn 0xF0F0 0xFF00 false 8)) = some (0xF000, 0x02) := by decide

/-- 95_test_vectors 2.1, `x AND y`. -/
theorem test_aluAnd_2 :
    arAndFlags (exec (.aluAnd .result .ay0 .ax0 .always) (aluIn 0x5555 0xAAAA false 0)) = some (0x0000, 0x01) := by decide

/-- 95_test_vectors 2.1, `x OR y` under AR_SAT. -/
theorem test_aluOr_1 :
    arAndFlags (exec (.aluOr .result .ay0 .ax0 .always) (aluIn 0xF0F0 0x0F0F false 8)) = some (0xFFFF, 0x02) := by decide

/-- 95_test_vectors 2.1, `x XOR y` under AR_SAT. -/
theorem test_aluXor_1 :
    arAndFlags (exec (.aluXor .result .ay0 .ax0 .always) (aluIn 0x1234 0x1234 false 8)) = some (0x0000, 0x01) := by decide

/-- 95_test_vectors 2.1, `x XOR y`. -/
theorem test_aluXor_2 :
    arAndFlags (exec (.aluXor .result .ay0 .ax0 .always) (aluIn 0x8000 0x0001 false 0)) = some (0x8001, 0x02) := by decide

/-- 95_test_vectors 2.1, `ABS x` under AR_SAT. -/
theorem test_aluAbs_1 :
    arAndFlags (exec (.aluAbs .result .ay0 .ax0 .always) (aluIn 0x8000 0 false 8)) = some (0x7FFF, 0x16) := by decide

/-- 95_test_vectors 2.1, `ABS x`. -/
theorem test_aluAbs_2 :
    arAndFlags (exec (.aluAbs .result .ay0 .ax0 .always) (aluIn 0x0000 0 false 0)) = some (0x0000, 0x01) := by decide

/-- 95_test_vectors 2.2, `x * y (RND)`, M_MODE = 0. -/
theorem test_macMulRnd_1 :
    mrAndMv (exec (.macMulRnd .result .my0 .mx0 .always) (macIn 0x0001 0x4000 0 0)) = some (0x0000000000, false) := by decide

/-- 95_test_vectors 2.2, `x * y (RND)`, M_MODE = 0. -/
theorem test_macMulRnd_2 :
    mrAndMv (exec (.macMulRnd .result .my0 .mx0 .always) (macIn 0x7FFF 0x7FFF 0 0)) = some (0x007FFE8002, false) := by decide

/-- 95_test_vectors 2.2, `MR + x * y (RND)`, M_MODE = 0. -/
theorem test_macAddRnd_1 :
    mrAndMv (exec (.macAddRnd .result .my0 .mx0 .always) (macIn 0x0000 0x0000 0x007FFF8000 0)) = some (0x0080000000, true) := by decide

/-- 95_test_vectors 2.2, `MR + x * y (RND)`, M_MODE = 0. -/
theorem test_macAddRnd_2 :
    mrAndMv (exec (.macAddRnd .result .my0 .mx0 .always) (macIn 0x0000 0x0000 0xFFFFFF8000 0)) = some (0x0000000000, false) := by decide

/-- 95_test_vectors 2.2, `MR – x * y (RND)`, M_MODE = 0. -/
theorem test_macSubRnd_1 :
    mrAndMv (exec (.macSubRnd .result .my0 .mx0 .always) (macIn 0x0001 0x4000 0x0000010000 0)) = some (0x0000000000, false) := by decide

/-- 95_test_vectors 2.2, `x * y (SS)`, M_MODE = 0. -/
theorem test_macMulSs_1 :
    mrAndMv (exec (.macMulSs .result .my0 .mx0 .always) (macIn 0x8000 0x8000 0 0)) = some (0x0080000000, true) := by decide

/-- 95_test_vectors 2.2, `x * y (SS)`, M_MODE = 0. -/
theorem test_macMulSs_2 :
    mrAndMv (exec (.macMulSs .result .my0 .mx0 .always) (macIn 0x0002 0x0003 0 0)) = some (0x000000000C, false) := by decide

/-- 95_test_vectors 2.2, `x * y (SU)`, M_MODE = 0. -/
theorem test_macMulSu_1 :
    mrAndMv (exec (.macMulSu .result .my0 .mx0 .always) (macIn 0xFFFF 0xFFFF 0 0)) = some (0xFFFFFE0002, false) := by decide

/-- 95_test_vectors 2.2, `x * y (SU)`, M_MODE = 1. -/
theorem test_macMulSu_2 :
    mrAndMv (exec (.macMulSu .result .my0 .mx0 .always) (macIn 0xFFFF 0xFFFF 0 0x10)) = some (0xFFFFFF0001, false) := by decide

/-- 95_test_vectors 2.2, `x * y (US)`, M_MODE = 0. -/
theorem test_macMulUs_1 :
    mrAndMv (exec (.macMulUs .result .my0 .mx0 .always) (macIn 0xFFFF 0xFFFF 0 0)) = some (0xFFFFFE0002, false) := by decide

/-- 95_test_vectors 2.2, `x * y (US)`, M_MODE = 1. -/
theorem test_macMulUs_2 :
    mrAndMv (exec (.macMulUs .result .my0 .mx0 .always) (macIn 0xFFFF 0xFFFF 0 0x10)) = some (0xFFFFFF0001, false) := by decide

/-- 95_test_vectors 2.2, `x * y (UU)`, M_MODE = 0. -/
theorem test_macMulUu_1 :
    mrAndMv (exec (.macMulUu .result .my0 .mx0 .always) (macIn 0xFFFF 0xFFFF 0 0)) = some (0x01FFFC0002, true) := by decide

/-- 95_test_vectors 2.2, `x * y (UU)`, M_MODE = 1. -/
theorem test_macMulUu_2 :
    mrAndMv (exec (.macMulUu .result .my0 .mx0 .always) (macIn 0x8000 0x8000 0 0x10)) = some (0x0040000000, false) := by decide

/-- 95_test_vectors 2.2, `MR + x * y (SS)`, M_MODE = 0. -/
theorem test_macAddSs_1 :
    mrAndMv (exec (.macAddSs .result .my0 .mx0 .always) (macIn 0x7FFF 0x7FFF 0x007FFF0000 0)) = some (0x00FFFD0002, true) := by decide

/-- 95_test_vectors 2.2, `MR + x * y (SS)`, M_MODE = 1. -/
theorem test_macAddSs_2 :
    mrAndMv (exec (.macAddSs .result .my0 .mx0 .always) (macIn 0xFFFF 0x0001 0x0000000000 0x10)) = some (0xFFFFFFFFFF, false) := by decide

/-- 95_test_vectors 2.2, `MR + x * y (UU)`, M_MODE = 1. -/
theorem test_macAddUu_1 :
    mrAndMv (exec (.macAddUu .result .my0 .mx0 .always) (macIn 0xFFFF 0xFFFF 0xFF00000000 0x10)) = some (0xFFFFFE0001, false) := by decide

/-- 95_test_vectors 2.2, `MR – x * y (SS)`, M_MODE = 0. -/
theorem test_macSubSs_1 :
    mrAndMv (exec (.macSubSs .result .my0 .mx0 .always) (macIn 0x8000 0x8000 0xFF80000000 0)) = some (0xFF00000000, true) := by decide

/-- 95_test_vectors 2.2, `MR – x * y (SS)`, M_MODE = 1. -/
theorem test_macSubSs_2 :
    mrAndMv (exec (.macSubSs .result .my0 .mx0 .always) (macIn 0x0001 0x0001 0x0000000000 0x10)) = some (0xFFFFFFFFFF, false) := by decide

/-- 95_test_vectors 2.2, `MR – x * y (UU)`, M_MODE = 1. -/
theorem test_macSubUu_1 :
    mrAndMv (exec (.macSubUu .result .my0 .mx0 .always) (macIn 0xFFFF 0xFFFF 0x00FFFE0001 0x10)) = some (0x0000000000, false) := by decide

/-! The MAC squaring forms and SAT MR (95_test_vectors 2.2). -/

/-- `MF = SR0 * SR0 (SS)` with SR0 = 0xC000. -/
theorem test_macSqrMulSs :
    (nextOf (exec (.macSqrMulSs .feedback .sr0 .always) (withBank { Bank.reset with sr0 := 0xC000 }))).map
      (fun t => (t.primary.mf, mrOf t.primary, flagMv t)) = some (0x2000, 0, false) := by decide

/-- `MR = MR + MX0 * MX0 (SS)` with MX0 = 0x8000. -/
theorem test_macSqrAddSs :
    mrAndMv (exec (.macSqrAddSs .result .mx0 .always) (macIn 0x8000 0 0 0)) = some (0x0080000000, true) := by decide

/-- `MR = MR - MX0 * MX0 (UU)`: the row `MR - x * y (UU)` with both operands 0xFFFF. -/
theorem test_macSqrSubUu :
    mrAndMv (exec (.macSqrSubUu .result .mx0 .always) (macIn 0xFFFF 0 0x00FFFE0001 0x10)) = some (0, false) := by decide

/-- R233: biased rounding keeps the odd half-way result. -/
theorem test_macSqrAddRnd_biased :
    mrAndMv (exec (.macSqrAddRnd .result .mx0 .always)
      { macIn 0 0 0x0012348000 0 with cfg := { Config.adsp2181 with biasrnd := true } }) =
      some (0x0012350000, false) := by decide

/-- R240, sixth row: MV = 0 leaves MR alone. -/
theorem test_satMr_keeps :
    mrAndMv (exec .satMr (macIn 0 0 0x0080000000 0)) = some (0x0080000000, false) := by decide

/-- R240: MV = 1 and the sign of MR2 decides. -/
theorem test_satMr_negative :
    mrAndMv (exec .satMr { macIn 0 0 0xFF7FFFFFFF 0 with astat := 0x40 }) = some (0xFF80000000, true) := by decide

/-! The constant forms, NONE and the divide steps (95_test_vectors 2.1). -/

/-- `AR = AR + 512` with AR = 0xFE00. -/
theorem test_aluAddK :
    arAndFlags (exec (.aluAddK .result 9 false .ar .always) (withBank { Bank.reset with ar := 0xFE00 })) =
      some (0x0000, 0x09) := by decide

/-- `AR = CLRBIT 15 OF SR1` with SR1 = 0xFFFF. -/
theorem test_aluClrbit :
    arAndFlags (exec (.aluClrbit .result 15 .sr1 .always) (withBank { Bank.reset with sr1 := 0xFFFF })) =
      some (0x7FFF, 0x00) := by decide

/-- `AR = SETBIT 0 OF AX1` with AX1 = 0x8000. -/
theorem test_aluSetbit :
    arAndFlags (exec (.aluSetbit .result 0 .ax1 .always) (withBank { Bank.reset with ax1 := 0x8000 })) =
      some (0x8001, 0x02) := by decide

/-- `AR = TGLBIT 13 OF AX0` with AX0 = 0x2000. -/
theorem test_aluTglbit :
    arAndFlags (exec (.aluTglbit .result 13 .ax0 .always) (aluIn 0x2000 0 false 0)) = some (0x0000, 0x01) := by decide

/-- `AR = PASS 8191`: the value is given, the four flags are open (R190). -/
theorem test_aluPassKDec :
    (nextOf (exec (.aluPassKDec .result 13 false .ax0 .always) State.reset)).map (fun t => (t.primary.ar, t.draws)) =
      some (0x1FFF, 1) := by decide

/-- `NONE = AX0 - AY0` with 5 and 5: the flags alone. -/
theorem test_noneAlu :
    arAndFlags (exec (.noneAlu .subXY .ay0 .ax0) (aluIn 5 5 false 0)) = some (0, 0x09) := by decide

/-- DIVS of 200 by 7. -/
theorem test_divs :
    divOut (exec (.divs .ay1 .ax0) (divIn 7 0x00C8 0 0)) = some (0x0000, 0x0190, false) := by decide

/-- DIVQ 8 of the run of 200 by 7: AQ = 1 adds the divisor. -/
theorem test_divq :
    divOut (exec (.divq .ax0) (divIn 7 0xC800 0xFFF2 0x20)) = some (0xFFF3, 0x9000, true) := by decide

/-- A member without the extended instructions (R160 item 5). -/
theorem test_no_ext :
    faultOf (exec (.aluAddK .result 9 false .ar .always) (State.resetWith Config.adsp2101 Image.empty)) =
      some (.unusedEncoding 0x22725F) := by decide

/-- Without `hasExt` the word of NONE names AR twice (R402). -/
theorem test_no_ext_none :
    faultOf (exec (.noneAlu .subXY .ay0 .ax0) (State.resetWith Config.adsp2101 Image.empty)) =
      some (.sameDestination 0x2AE0AA) := by decide

/-! The shifter (95_test_vectors 2.3). -/

/-- x = 0xB6A3, code -5. -/
theorem test_ashiftHi : srOut (exec (.ashiftHi .si .always) (shiftIn 0xB6A3 0xFB 0 0)) = some 0xFDB51800 := by decide
theorem test_ashiftLo : srOut (exec (.ashiftLo .si .always) (shiftIn 0xB6A3 0xFB 0 0)) = some 0xFFFFFDB5 := by decide
theorem test_lshiftHi : srOut (exec (.lshiftHi .si .always) (shiftIn 0xB6A3 0xFB 0 0)) = some 0x05B51800 := by decide
theorem test_lshiftLo : srOut (exec (.lshiftLo .si .always) (shiftIn 0xB6A3 0xFB 0 0)) = some 0x000005B5 := by decide

/-- `SR = SR OR LSHIFT SI (LO)`: the second half of the double-precision shift right by 4. -/
theorem test_lshiftLoOr :
    srOut (exec (.lshiftLoOr .si .always) (shiftIn 0x4321 0xFC 0xF8765000 0)) = some 0xF8765432 := by decide

/-- `SR = SR OR ASHIFT SR0 BY 3 (LO)` with SR = 0x0000B6A3. -/
theorem test_ashiftImmLoOr :
    srOut (exec (.ashiftImmLoOr .sr0 3) (shiftIn 0 0 0x0000B6A3 0)) = some 0xFFFDB7BB := by decide

/-- x = 0x8000, code -128 (R263). -/
theorem test_ashiftImmHi : srOut (exec (.ashiftImmHi .si 0x80) (shiftIn 0x8000 0 0 0)) = some 0xFFFFFFFF := by decide
theorem test_lshiftImmHi : srOut (exec (.lshiftImmHi .si 0xE1) (shiftIn 0x8000 0 0 0)) = some 0x00000001 := by decide
theorem test_lshiftImmLo : srOut (exec (.lshiftImmLo .si 31) (shiftIn 0x0001 0 0 0)) = some 0x80000000 := by decide

/-- NORM (HI) of 0x8000 with SE = 1 and AC = 1. -/
theorem test_normHi : srOut (exec (.normHi .si .always) (shiftIn 0x8000 1 0 0x08)) = some 0xC0000000 := by decide
theorem test_normLo : srOut (exec (.normLo .si .always) (shiftIn 0x8000 1 0 0x08)) = some 0x00004000 := by decide

/-- EXP (HI) of 0xF123: SE = -3, SS = 1. -/
theorem test_expHi : expOut (exec (.expHi .si .always) (shiftIn 0xF123 0 0 0)) = some (0xFD, true) := by decide

/-- EXP (HIX) of 0x8000 with AV = 1: SE = 1, SS = 0. -/
theorem test_expHix : expOut (exec (.expHix .si .always) (shiftIn 0x8000 0 0 0x04)) = some (1, false) := by decide

/-- EXP (LO) of 0xFF00 after SE = -15 with SS = 1. -/
theorem test_expLo : expOut (exec (.expLo .si .always) (shiftIn 0xFF00 0xF1 0 0x80)) = some (0xE9, true) := by decide

/-- EXPADJ: 0x00FF raises SB from -16 to -7. -/
theorem test_expadj :
    (nextOf (exec (.expadj .si .always) (withBank { Bank.reset with si := 0x00FF, sb := 0x10 }))).map
      (fun t => t.primary.sb) = some 0x19 := by decide

/-- EXPADJ: a smaller exponent leaves SB. -/
theorem test_expadj_keeps :
    (nextOf (exec (.expadj .si .always) (withBank { Bank.reset with si := 0xFFF0, sb := 0x19 }))).map
      (fun t => t.primary.sb) = some 0x19 := by decide

/-! Moves and memory (95_test_vectors 2.4). -/

/-- `MR1 = AX0` sign-extends into MR2. -/
theorem test_moveReg_mr1 :
    (nextOf (exec (.moveReg (.dreg .mr1) (.dreg .ax0)) (aluIn 0x8000 0 false 0))).map
      (fun t => (t.primary.mr1, t.primary.mr2)) = some (0x8000, 0xFF) := by decide

/-- `CNTR = AX0` pushes the old counter. -/
theorem test_moveReg_cntr :
    (nextOf (exec (.moveReg .cntr (.dreg .ax0)) { aluIn 0xC005 0 false 0 with seq := { State.reset.seq with cntr := 2 } })).map
      (fun t => (t.seq.cntr, t.seq.cntrStack)) = some (0x0005, [2]) := by decide

/-- `SE = -5`: the low byte. -/
theorem test_loadDreg :
    (nextOf (exec (.loadDreg 0xFFFB .se) State.reset)).map (fun t => t.primary.se) = some 0xFB := by decide

/-- `M1 = -1`. -/
theorem test_loadReg :
    (nextOf (exec (.loadReg 0x3FFF (.m 1)) State.reset)).map (fun t => t.dag.m[1]) = some 0x3FFF := by decide

/-- `DM(0x0101) = SE`: the bus value is sign-extended. -/
theorem test_writeDm :
    (nextOf (exec (.writeDm 0x0101 (.dreg .se)) (withBank { Bank.reset with se := 0xFB }))).map (fun t => t.mem.dm) =
      some [(0x0101, 0xFFFB)] := by decide

/-- `MR1 = DM(0x0100)`. -/
theorem test_readDm :
    (nextOf (exec (.readDm 0x0100 (.dreg .mr1)) (memIn [] [(0x0100, 0x8001)]))).map
      (fun t => (t.primary.mr1, t.primary.mr2)) = some (0x8001, 0xFF) := by decide

/-- `AY0 = DM(I3, M1)`. -/
theorem test_readDmInd :
    (nextOf (exec (.readDmInd .dag1 .ay0 3 1) (withDag 3 0x0100 1 2 0 (memIn [] [(0x0100, 0xBEEF)])))).map
      (fun t => (t.primary.ay0, t.dag.i[3])) = some (0xBEEF, 0x0102) := by decide

/-- `DM(I2, M0) = MR1` at the last address: I2 wraps. -/
theorem test_writeDmInd :
    (nextOf (exec (.writeDmInd .dag1 .mr1 2 0) (withDag 2 0x3FFF 0 1 0 (withBank { Bank.reset with mr1 := 0x7FFF })))).map
      (fun t => (t.mem.dm, t.dag.i[2])) = some ([(0x3FFF, 0x7FFF)], 0x0000) := by decide

/-- `DM(I0, M0) = 0x1234` with BIT_REV: I0 = 0x0100 addresses 0x0020. -/
theorem test_writeDmImm :
    (nextOf (exec (.writeDmImm .dag1 0x1234 0 0) (withDag 0 0x0100 0 1 0 { State.reset with mstat := 2 }))).map
      (fun t => (t.mem.dm, t.dag.i[0])) = some ([(0x0020, 0x1234)], 0x0101) := by decide

/-- `MX1 = PM(I6, M5)`. -/
theorem test_readPmInd :
    (nextOf (exec (.readPmInd .mx1 2 1) (withDag 6 0x0200 5 1 0 (memIn [(0x0200, 0x123456)] [])))).map
      (fun t => (t.primary.mx1, t.px, t.dag.i[6])) = some (0x1234, 0x56, 0x0201) := by decide

/-- `PM(I6, M5) = AR`. -/
theorem test_writePmInd :
    (nextOf (exec (.writePmInd .ar 2 1)
      (withDag 6 0x0300 5 1 0 { withBank { Bank.reset with ar := 0xABCD } with px := 0xEF }))).map
      (fun t => (t.mem.pm, t.mem.pmWritten)) = some ([(0x0300, 0xABCDEF)], some 0x0300) := by decide

/-- `IO(23) = AX0`: an event and nothing stored. -/
theorem test_writeIo :
    (nextOf (exec (.writeIo 23 .ax0) (aluIn 0x00AA 0 false 0))).map (fun t => t.events) =
      some [.ioWrite 23 0x00AA] := by decide

/-- The same on a member without the I/O space. -/
theorem test_writeIo_absent :
    faultOf (exec (.writeIo 23 .ax0) (State.resetWith Config.adsp2101 Image.empty)) =
      some (.unusedEncoding 0x018170) := by decide

/-- `AX0 = TOPPCSTACK`: the pop stays pending. -/
theorem test_moveFromTop :
    (nextOf (exec (.moveFromTop (.dreg .ax0)) (withPcStack [0x0123]))).map
      (fun t => (t.primary.ax0, t.seq.pcStack, t.seq.pcPopPending)) = some (0x0123, [0x0123], true) := by decide

/-- `TOPPCSTACK = AR` keeps 14 bits. -/
theorem test_moveToTop :
    (nextOf (exec (.moveToTop (.dreg .ar)) (withBank { Bank.reset with ar := 0xC123 }))).map (fun t => t.seq.pcStack) =
      some [0x0123] := by decide

/-! Program flow (95_test_vectors 2.5). -/

/-- `IF NOT CE JUMP 0x0123` with CNTR = 0: it wraps and jumps. -/
theorem test_jump_notCe :
    (nextOf (exec (.jump 0x0123 .notCe) State.reset)).map (fun t => (t.seq.cntr, t.seq.transfer)) =
      some (0x3FFF, some 0x0123) := by decide

/-- `CALL 0x0200` at 0x0050. -/
theorem test_call :
    (nextOf (exec (.call 0x0200 .always) { State.reset with seq := { State.reset.seq with pc := 0x0050 } })).map
      (fun t => (t.seq.pcStack, t.seq.transfer)) = some ([0x0051], some 0x0200) := by decide

/-- `CALL (I7)`. -/
theorem test_callInd :
    (nextOf (exec (.callInd 3 .always) (withDag 7 0x0300 0 0 0 State.reset))).map
      (fun t => (t.seq.pcStack, t.seq.transfer)) = some ([0x0001], some 0x0300) := by decide

/-- `JUMP (I4)`. -/
theorem test_jumpInd :
    (nextOf (exec (.jumpInd 0 .always) (withDag 4 0x0200 0 0 0 State.reset))).map (fun t => t.seq.transfer) =
      some (some 0x0200) := by decide

/-- `IF FLAG_IN JUMP 0x0345` with the pin low: no jump. -/
theorem test_jumpFlag :
    (nextOf (exec (.jumpFlag 0x0345 true) State.reset)).map (fun t => t.seq.transfer) = some none := by decide

/-- `IF NOT FLAG_IN CALL 0x3ABC`. -/
theorem test_callFlag :
    (nextOf (exec (.callFlag 0x3ABC false) State.reset)).map (fun t => (t.seq.pcStack, t.seq.transfer)) =
      some ([0x0001], some 0x3ABC) := by decide

/-- `IF MV SET FLAG_OUT, RESET FL1` with FL1 already low: one event. -/
theorem test_flagOut :
    (nextOf (exec (.flagOut .keep .reset .keep .set .mv) { State.reset with astat := 0x40 })).map
      (fun t => (t.ports.fo, t.ports.fl1, t.events)) = some (true, false, [.pin .fo true]) := by decide

/-- `RTS` with an empty stack. -/
theorem test_rts : faultOf (exec (.rts .always) State.reset) = some (.stackUnderflow .pc) := by decide

/-- `RTI` restores ASTAT, MSTAT and IMASK. -/
theorem test_rti :
    (nextOf (exec (.rti .always) { State.reset with
      seq := { State.reset.seq with pcStack := [0x0004], stsStack := [{ astat := 0x09, mstat := 0x20, imask := 1 }] } })).map
      (fun t => (t.astat, t.mstat, t.int.imask, t.seq.transfer)) = some (0x09, 0x20, 1, some 0x0004) := by decide

/-- `DO 0x0110 UNTIL CE` at 0x0100. -/
theorem test_doUntil :
    (nextOf (exec (.doUntil 0x0110 .ce) { State.reset with seq := { State.reset.seq with pc := 0x0100 } })).map
      (fun t => (t.seq.loopStack, t.seq.pcStack)) = some ([{ last := 0x0110, term := .ce }], [0x0101]) := by decide

/-- `DO UNTIL` with four loops open: LSO and nothing else. -/
theorem test_doUntil_full :
    (nextOf (exec (.doUntil 0x0110 .ce) { State.reset with
      seq := { State.reset.seq with loopStack := List.replicate 4 { last := 1, term := .eq } } })).map
      (fun t => (t.seq.loopOvf, t.seq.pcOvf, t.seq.loopStack.length, t.seq.pcStack)) = some (true, false, 4, []) := by decide

theorem test_idle : (nextOf (exec .idle State.reset)).map (fun t => t.int.idle) = some true := by decide
theorem test_idleN : (nextOf (exec (.idleN .n16) State.reset)).map (fun t => t.int.idle) = some true := by decide

/-! Stack control, modes, MODIFY (95_test_vectors 2.6). -/

/-- `POP CNTR, POP PC, POP LOOP`. -/
theorem test_stackControl :
    (nextOf (exec (.stackControl true true true .keep) { State.reset with
      seq := { State.reset.seq with
        cntr := 2, cntrStack := [7], pcStack := [0x0101], loopStack := [{ last := 0x0110, term := .ce }] } })).map
      (fun t => (t.seq.cntr, sstat t)) = some (7, 0x55) := by decide

/-- `PUSH STS`. -/
theorem test_pushSts :
    (nextOf (exec (.stackControl false false false .push) { State.reset with astat := 0x09, mstat := 0x10 })).map
      (fun t => (t.seq.stsStack, sstat t)) = some ([{ astat := 0x09, mstat := 0x10, imask := 0 }], 0x45) := by decide

/-- `DIS AR_SAT, ENA M_MODE`. -/
theorem test_modeControl :
    (nextOf (exec (.modeControl .keep .ena .dis .keep .keep .keep .keep) { State.reset with mstat := 0x08 })).map
      (fun t => t.mstat) = some 0x10 := by decide

theorem test_disInts : (nextOf (exec .disInts State.reset)).map (fun t => t.int.ints) = some false := by decide
theorem test_enaInts : (nextOf (exec .enaInts State.reset)).map (fun t => t.int.ints) = some true := by decide

/-- `MODIFY (I7, M4)`: the circular buffer wraps. -/
theorem test_modify :
    (nextOf (exec (.modify .dag2 3 0) (withDag 7 0x0105 4 3 8 State.reset))).map (fun t => t.dag.i[7]) =
      some 0x0100 := by decide

/-- R91: a negative modify value wraps the other way. -/
theorem test_modify_down :
    (nextOf (exec (.modify .dag1 0 0) (withDag 0 0x0101 0 0x3FFE 8 State.reset))).map (fun t => t.dag.i[0]) =
      some 0x0107 := by decide

theorem test_nop : (nextOf (exec .nop State.reset)).map (fun t => decide (t = State.reset)) = some true := by decide
theorem test_unused : faultOf (exec (.unused 0xBEEF) State.reset) = some (.unusedEncoding 0x08BEEF) := by decide

/-! Multifunction (95_test_vectors 2.7). -/

/-- `AR = AX0 + AY0, AX0 = DM(I0, M0)`: the old AX0 is used. -/
theorem test_compReadDm :
    (nextOf (exec (.compReadDm .dag1 .result (.alu .add .ay0 .ax0) .ax0 0 0)
      (withDag 0 0x0100 0 1 0 { memIn [] [(0x0100, 9)] with primary := { Bank.reset with ax0 := 5, ay0 := 7 } }))).map
      (fun t => (t.primary.ar, t.primary.ax0, t.dag.i[0])) = some (0x000C, 9, 0x0101) := by decide

/-- `AR = PASS AY0, AY0 = AR`: a swap. -/
theorem test_compMove :
    (nextOf (exec (.compMove .result (some (.alu .passY .ay0 .ax0)) .ay0 .ar)
      (withBank { Bank.reset with ar := 0x1111, ay0 := 0x2222 }))).map (fun t => (t.primary.ar, t.primary.ay0)) =
      some (0x2222, 0x1111) := by decide

/-- `AR = AX0 + AY0, AR = MR1`. -/
theorem test_compMove_same :
    faultOf (exec (.compMove .result (some (.alu .add .ay0 .ax0)) .ar .mr1) State.reset) =
      some (.sameDestination 0x2A60AC) := by decide

/-- `DM(I0, M0) = AR, AR = AX0 + AY0`: the old AR is stored. -/
theorem test_compWriteDm :
    (nextOf (exec (.compWriteDm .dag1 .result (.alu .add .ay0 .ax0) .ar 0 0)
      (withDag 0 0x0100 0 1 0 (withBank { Bank.reset with ar := 0x00AA, ax0 := 1, ay0 := 2 })))).map
      (fun t => (t.mem.dm, t.primary.ar)) = some ([(0x0100, 0x00AA)], 3) := by decide

/-- `SR = ASHIFT SI (HI), SI = DM(I0, M0)`. -/
theorem test_shiftReadDm :
    (nextOf (exec (.shiftReadDm .dag1 (.ashift .hi false) .si .si 0 0)
      (withDag 0 0x0100 0 1 0 { memIn [] [(0x0100, 1)] with primary := { Bank.reset with si := 0xB6A3, se := 0xFB } }))).map
      (fun t => (srOf t.primary, t.primary.si)) = some (0xFDB51800, 1) := by decide

/-- `SR = LSHIFT SR0 (LO), AX0 = SR1`. -/
theorem test_shiftMove :
    (nextOf (exec (.shiftMove (.lshift .lo false) .sr0 .ax0 .sr1)
      (withBank { Bank.reset with sr1 := 0x1234, sr0 := 0x8000, se := 1 }))).map
      (fun t => (t.primary.ax0, srOf t.primary)) = some (0x1234, 0x00010000) := by decide

/-- `PM(I4, M4) = MR1, MR = MX0 * MY0 (RND)`. -/
theorem test_compWritePm :
    (nextOf (exec (.compWritePm .result (.mac ⟨.mul, .rnd⟩ .my0 .mx0) .mr1 0 0)
      (withDag 4 0x0200 4 1 0 { withBank { Bank.reset with mr1 := 0x1111, mx0 := 0x4000, my0 := 0x4000 } with px := 0x22 }))).map
      (fun t => (t.mem.pm, mrOf t.primary, t.dag.i[4])) = some ([(0x0200, 0x111122)], 0x0020008000, 0x0201) := by decide

/-- `AR = AX0 + AY0, MX0 = PM(I4, M4)`: the low byte goes to PX. -/
theorem test_compReadPm :
    (nextOf (exec (.compReadPm .result (.alu .add .ay0 .ax0) .mx0 0 0)
      (withDag 4 0x0200 4 1 0 { memIn [(0x0200, 0xABCDEF)] [] with primary := { Bank.reset with ax0 := 1, ay0 := 2 } }))).map
      (fun t => (t.primary.ar, t.primary.mx0, t.px)) = some (3, 0xABCD, 0xEF) := by decide

/-- `AX0 = DM(I0, M0), AY0 = PM(I4, M4)`. -/
theorem test_dualRead :
    (nextOf (exec (.dualRead .ay0 .ax0 0 0 0 0)
      (withDag 0 0x0100 0 1 0 (withDag 4 0x0200 4 1 0 (memIn [(0x0200, 0x000234)] [(0x0100, 1)]))))).map
      (fun t => (t.primary.ax0, t.primary.ay0, t.px, t.dag.i[0], t.dag.i[4])) =
      some (1, 2, 0x34, 0x0101, 0x0201) := by decide

/-- `MR = MR + MX0 * MY0 (UU), MX0 = DM(I0, M0), MY0 = PM(I4, M4)`. -/
theorem test_compDualRead :
    (nextOf (exec (.compDualRead .my0 .mx0 (.mac ⟨.add, .uu⟩ .my0 .mx0) 0 0 0 0)
      { memIn [(0, 0x000400)] [(0, 3)] with
        primary := { Bank.reset with mx0 := 0xFFFF, my0 := 0xFFFF }, mstat := 0x10 })).map
      (fun t => (mrOf t.primary, flagMv t, t.primary.mx0, t.primary.my0)) =
      some (0x00FFFE0001, true, 3, 4) := by decide

/-! The step. -/

/-- Right after reset no program is placed (R472): the first step stops. -/
theorem test_step_empty : faultOf (step State.reset) = some (.unwrittenPM 0) := by decide

/-- A placed word is the next instruction (R472): `AX0 = 0x1234` at 0. -/
theorem test_step_placed :
    (nextOf (step (State.reset.withFetchWord 24 0x412340))).map (fun t => (t.primary.ax0, t.seq.pc, t.steps)) =
      some (0x1234, 1, 1) := by decide

/-- The last instruction of a loop whose condition holds: the loop is left (R351, R352). -/
theorem test_step_loopExit :
    (nextOf (step { memIn [(0x0102, 0)] [] with
      astat := 1
      seq := { State.reset.seq with
        pc := 0x0102, loopStack := [{ last := 0x0102, term := .eq }], pcStack := [0x0101] } })).map
      (fun t => (t.seq.pc, t.seq.loopStack, t.seq.pcStack)) = some (0x0103, [], []) := by decide

/-- The same in a counted loop that goes on: CNTR is decremented (R351). -/
theorem test_step_loopBack :
    (nextOf (step { memIn [(0x0102, 0)] [] with
      seq := { State.reset.seq with
        pc := 0x0102, cntr := 3, loopStack := [{ last := 0x0102, term := .ce }], pcStack := [0x0101] } })).map
      (fun t => (t.seq.pc, t.seq.cntr)) = some (0x0101, 2) := by decide

/-- 95_test_vectors 2.8: a pending timer request of the ADSP-2101 table is taken; its handler's first word is NOP. -/
theorem test_step_interrupt :
    (nextOf (step { State.resetWith Config.adsp2101 Image.empty with
      astat := 0x09, mstat := 0x20
      int := { State.reset.int with imask := 1, irqPending := [false, false, false, false, false, true] }
      mem := { State.reset.mem with pm := [(0x0018, 0)] }
      seq := { State.reset.seq with pc := 0x0123 } })).map
      (fun t => (t.seq.pcStack, t.seq.stsStack, t.int.imask, t.seq.pc, sstat t)) =
      some ([0x0123], [{ astat := 0x09, mstat := 0x20, imask := 1 }], 0, 0x0019, 0x44) := by decide

/-- A word that is no instruction (R160). -/
theorem test_step_unused :
    faultOf (step (State.reset.withFetchWord 24 0x0C0001)) = some (.unusedEncoding 0x0C0001) := by decide

/-- The word the instruction before wrote (R100). -/
theorem test_step_selfModify :
    faultOf (step { memIn [(0, 0)] [] with mem := { pm := [(0, 0)], dm := [], pmWritten := some 0 } }) =
      some (.selfModifyHazard 0) := by decide

/-! Well-formedness: each check refuses an ill-formed term. -/

theorem test_wf_moveFromTop : (Instr.moveFromTop .astat).wellFormed = false := by decide
theorem test_wf_moveToTop : (Instr.moveToTop .px).wellFormed = false := by decide
theorem test_wf_moveReg_dest : (Instr.moveReg .sstat .px).wellFormed = false := by decide
theorem test_wf_moveReg_source : (Instr.moveReg .px .ifc).wellFormed = false := by decide
theorem test_wf_loadReg_dest : (Instr.loadReg 0 .sstat).wellFormed = false := by decide
theorem test_wf_loadReg_dreg : (Instr.loadReg 0 (.dreg .ax0)).wellFormed = false := by decide
theorem test_wf_readDm : (Instr.readDm 0 .sstat).wellFormed = false := by decide
theorem test_wf_writeDm : (Instr.writeDm 0 .owrcntr).wellFormed = false := by decide
theorem test_wf_compMove_none : (Instr.compMove .feedback none .ax0 .ax0).wellFormed = false := by decide
theorem test_wf_compMove_ar : (Instr.compMove .result (some (.alu .add .ay0 .ax0)) .ar .ar).wellFormed = false := by decide


/-! Witnesses: for each obligation with hypotheses, states and operands that meet them all, one for each clause and at
the boundary values. -/

/-- With every source masked no interrupt is taken, whatever is requested. -/
theorem noInterrupt_masked (s : State) (h : s.int.imask = 0) : NoInterrupt s := by
  intro k src hc
  have hm := hc.2.2.1
  simp [h] at hm

/-- The latches after sampling exist in every state. -/
theorem latches (s : State) : ∃ pend, LatchesNow s pend := ⟨_, (latchesNow_iff s _).mpr rfl⟩

/-- A program of one word at 0. -/
def oneWord (w : PmWord) : State := memIn [(0, w)] []

theorem oneWord_fetches (w : PmWord) : Fetches (oneWord w) w :=
  ⟨rfl, by simp [oneWord, memIn], .inl (by decide : regionKind Config.adsp2181.pmMap 0 = some .ram), rfl⟩

theorem oneWord_noInterrupt (w : PmWord) : NoInterrupt (oneWord w) := noInterrupt_masked _ rfl

/-- The same program at the end of a loop with one PC stack entry and CNTR = `c`. -/
def loopWord (w : PmWord) (term : Term) (c : Addr) (st : BitVec 8) : State :=
  { oneWord w with
    astat := st
    seq := { State.reset.seq with cntr := c, loopStack := [{ last := 0, term := term }], pcStack := [0x0001] } }

theorem loopWord_fetches (w : PmWord) (t : Term) (c : Addr) (st : BitVec 8) : Fetches (loopWord w t c st) w :=
  oneWord_fetches w

theorem loopWord_noInterrupt (w : PmWord) (t : Term) (c : Addr) (st : BitVec 8) : NoInterrupt (loopWord w t c st) :=
  noInterrupt_masked _ rfl

/-- Another set of code tables: ENA and DIS exchanged in the mode-control fields. -/
def swappedModes : Codes := { standardCodes with modeOp := #v[.keep, .keepAlt, .ena, .dis] }

theorem swappedModes_complete : swappedModes.Complete :=
  { standardCodes_complete with modeOp := fun v => by cases v <;> rfl }

theorem witness_DecodeEncode :
    Instr.nop.wellFormed = true ∧ (Instr.moveFromTop (.l 7)).wellFormed = true ∧ swappedModes.Complete :=
  ⟨rfl, rfl, swappedModes_complete⟩

/-- The step decodes by the tables of its configuration (R6): ENA TIMER is DIS TIMER under the other set. -/
theorem test_step_uses_codes :
    (nextOf (step (oneWord 0x0CC000))).map (fun t => t.mstat) = some 0x20 ∧
    (nextOf (step { oneWord 0x0CC000 with cfg := { Config.adsp2181 with codes := swappedModes } })).map
      (fun t => t.mstat) = some 0 := by decide

theorem witness_EncodeDecode : decode 0x000000#24 = .ok .nop ∧ decode 0x08FFFF#24 = .ok (.unused 0xFFFF) := by decide

theorem witness_UnusedEncodingFaults :
    NoInterrupt (oneWord 0x000001) ∧ Fetches (oneWord 0x000001) 0x000001 ∧ isNoInstruction 0x000001 = true ∧
    (oneWord 0x000001).cfg.codes = standardCodes ∧
    ∀ i, decodeWith (oneWord 0x000001).cfg.codes 0x000001 ≠ .ok i :=
  ⟨oneWord_noInterrupt _, oneWord_fetches _, by decide, rfl, fun i h => by
    have : decodeWith standardCodes 0x000001 = .error .fixedBits := by decide
    rw [show (oneWord 0x000001).cfg.codes = standardCodes from rfl, this] at h
    cases h⟩

/-- One instruction of each absent option. -/
theorem witness_MissingOptionFaults :
    memberHas Member.adsp2101 .enaInts = false ∧ memberHas Member.adsp217x (.readIo 0 .ax0) = false ∧
    memberHas Member.adsp2101 (.flagOut .keep .keep .set .keep .always) = false := by decide

/-- A status condition, and NOT CE at its boundary CNTR = 1. -/
theorem witness_FalseConditionIsNop :
    conditionOf (.jump 0 .eq) = some .eq ∧ memberHas State.reset.cfg.member (.jump 0 .eq) = true ∧
    condHolds .eq State.reset = false ∧ conditionOf (.rts .notCe) = some .notCe ∧
    condHolds .notCe { State.reset with seq := { State.reset.seq with cntr := 1 } } = false := by decide

theorem witness_conditions : condHolds .always State.reset = true ∧ condHolds .notCe State.reset = true := by decide

/-- AluRegisterForms: the situation of a draw, and an overflow under AR_SAT. -/
theorem witness_AluRegisterForms :
    condHolds .av { State.reset with mstat := 0x0C, astat := 4 } = true ∧
    arIsDrawn .add 1 1 { State.reset with mstat := 0x0C, astat := 4 } = true ∧
    arReceives .add 0x7FFF 1 { State.reset with mstat := 8 } = 0x7FFF ∧
    arReceives .add 0x8000 0x8000 { State.reset with mstat := 8 } = 0x8000 := by decide

theorem witness_AluConstantForms :
    aluConstForm .add .result 15 true .sr1 .notCe = some (.aluAddK .result 15 true .sr1 .notCe) ∧
    aluConstForm .andXY .feedback 0 true .ax0 .always = some (.aluClrbit .feedback 0 .ax0 .always) ∧
    State.reset.cfg.member.hasExt = true ∧ condHolds .notCe State.reset = true := by decide

/-- PassConstantForms: with and without the open value of AR. -/
theorem witness_PassConstantForms :
    State.reset.cfg.member.hasExt = true ∧ condHolds .always State.reset = true ∧ arSat State.reset = false ∧
    arSat { State.reset with mstat := 8 } = true := by decide

theorem witness_NoneStatus :
    State.reset.cfg.member.hasExt = true ∧ (State.resetWith Config.adsp2101 Image.empty).cfg.member.hasExt = false := by
  decide

theorem witness_CompareThenTest : avLatch State.reset = false := by decide

theorem witness_MacSquaringForms :
    squareForm ⟨.sub, .rnd⟩ .feedback .sr1 .eq = some (.macSqrSubRnd .feedback .sr1 .eq) ∧
    State.reset.cfg.member.hasExt = true ∧ condHolds .eq { State.reset with astat := 1 } = true := by decide

/-- BusValues: a zero-filled, a sign-extended and a 16-bit register, and a RAM word. -/
theorem witness_BusValues :
    Reg.sstat.isSource = true ∧ (Reg.dreg .mr2).isSource = true ∧ Reg.tx1.isSource = true ∧ Reg.sb ≠ .rx0 ∧
    Reg.sb ≠ .rx1 ∧ regionKind State.reset.cfg.dmMap 0x3FFF = some .ram := by decide

/-- RegisterMoves and ImmediateLoads: CNTR with one place left on the counter stack, and any other register. -/
theorem witness_RegisterMoves :
    Reg.rx0.isSource = true ∧ regWritable .ifc State.reset ∧
    regWritable .cntr { State.reset with seq := { State.reset.seq with cntrStack := [1, 2, 3] } } := by
  refine ⟨rfl, ⟨by decide, fun h => absurd h (by decide)⟩, by decide, fun _ _ => by decide⟩

theorem witness_ImmediateLoads : Reg.cntr.isDreg = false ∧ regWritable .cntr State.reset :=
  ⟨rfl, by decide, fun _ _ => by decide⟩

/-- A configuration with all three kinds of ranges in DM and PM. -/
def threeKinds : Config :=
  { Config.adsp2181 with
    dmMap := [{ base := 0, size := 16, kind := .ram }, { base := 16, size := 16, kind := .rom },
      { base := 32, size := 16, kind := .device }]
    pmMap := [{ base := 0, size := 16, kind := .ram }, { base := 16, size := 16, kind := .rom },
      { base := 32, size := 16, kind := .device }] }

/-- The memory of that configuration, written at 15 and 16. -/
def threeKindsState : State :=
  State.resetWith threeKinds { pm := [(15, 1), (16, 2)], dm := [(15, 1), (16, 2)] }

/-- Each kind of readable and writable data memory location, at the borders of the ranges. -/
theorem witness_DirectDataMoves :
    dmReadable threeKindsState 15 ∧ dmReadable threeKindsState 16 ∧ dmReadable threeKindsState 32 ∧
    dmWritable threeKindsState 15 ∧ dmWritable threeKindsState 47 ∧ regWritable .px threeKindsState ∧
    Reg.px.isSource = true :=
  ⟨.inl ⟨.inl (by decide), by decide⟩, .inl ⟨.inr (by decide), by decide⟩, .inr (by decide), .inl (by decide),
    .inr (by decide), ⟨by decide, fun h => absurd h (by decide)⟩, rfl⟩

/-- The same through an I register: 15, 16 and 32 in I0 to I2, and in I4 to I6. -/
def threeKindsIndirect : State :=
  setI 0 15 (setI 1 16 (setI 2 32 (setI 4 15 (setI 5 16 (setI 6 32 threeKindsState)))))

theorem witness_IndirectDataMoves :
    dmReadable threeKindsIndirect (addrOut threeKindsIndirect (dagIdx .dag1 0)) ∧
    dmReadable threeKindsIndirect (addrOut threeKindsIndirect (dagIdx .dag2 1)) ∧
    dmReadable threeKindsIndirect (addrOut threeKindsIndirect (dagIdx .dag1 2)) ∧
    dmWritable threeKindsIndirect (addrOut threeKindsIndirect (dagIdx .dag1 0)) ∧
    dmWritable threeKindsIndirect (addrOut threeKindsIndirect (dagIdx .dag2 2)) :=
  ⟨.inl ⟨.inl (by decide), by decide⟩, .inl ⟨.inr (by decide), by decide⟩, .inr (by decide), .inl (by decide),
    .inr (by decide)⟩

theorem witness_IndirectProgramMoves :
    pmReadable threeKindsIndirect (addrOut threeKindsIndirect (dagIdx .dag2 0)) ∧
    pmReadable threeKindsIndirect (addrOut threeKindsIndirect (dagIdx .dag2 1)) ∧
    pmReadable threeKindsIndirect (addrOut threeKindsIndirect (dagIdx .dag2 2)) ∧
    pmWritable threeKindsIndirect (addrOut threeKindsIndirect (dagIdx .dag2 0)) ∧
    pmWritable threeKindsIndirect (addrOut threeKindsIndirect (dagIdx .dag2 2)) :=
  ⟨.inl ⟨.inl (by decide), by decide⟩, .inl ⟨.inr (by decide), by decide⟩, .inr (by decide), .inl (by decide),
    .inr (by decide)⟩

theorem witness_IoMoves :
    State.reset.cfg.member.hasIO = true ∧ (regionKind State.reset.cfg.ioMap 2047).isSome = true := by decide

/-- AbsentMemoryFaults: outside the map, read-only, and never written, at the borders of the ranges. -/
theorem witness_AbsentMemoryFaults :
    Reg.px.isSource = true ∧ regionKind threeKindsState.cfg.dmMap 48 = none ∧
    regionKind threeKindsState.cfg.dmMap 16 = some .rom ∧
    (¬ dmReadable threeKindsState 14 ∧ regionKind threeKindsState.cfg.dmMap 14 ≠ none) ∧
    regionKind threeKindsState.cfg.pmMap 48 = none ∧
    regionKind threeKindsIndirect.cfg.pmMap (addrOut threeKindsIndirect (dagIdx .dag2 1)).toNat = some .rom ∧
    (¬ pmReadable threeKindsState 17 ∧ regionKind threeKindsState.cfg.pmMap 17 ≠ none) ∧
    ({ State.reset with cfg := { Config.adsp2181 with ioMap := [] } } : State).cfg.member.hasIO = true := by
  refine ⟨rfl, by decide, by decide, ⟨?_, by decide⟩, by decide, by decide, ⟨?_, by decide⟩, rfl⟩
  · rintro (⟨-, h⟩ | h)
    · exact absurd h (by decide)
    · exact absurd h (by decide)
  · rintro (⟨-, h⟩ | h)
    · exact absurd h (by decide)
    · exact absurd h (by decide)

/-- TopPcStackForms: a stack of one entry, and one with a single place left. -/
theorem witness_TopPcStackForms :
    (Reg.m 7).isTopReg = true ∧ State.reset.seq.pcPopPending = false ∧ (withPcStack [0x3FFF]).seq.pcStack = [0x3FFF] ∧
    (withPcStack (List.replicate 15 0)).seq.pcStack.length < 16 := by decide

/-- ModifyAddress: the three shapes of the post-modify: linear, circular, and outside the precondition. -/
theorem witness_ModifyAddress :
    modifyDefined 0x3FFF 1 0 = true ∧ modifyDefined 0x0104 1 5 = true ∧ modifyDefined 0x0105 1 5 = false ∧
    modifyDefined 0x0102 6 5 = false := by decide

theorem witness_BitReversedAddress :
    ({ State.reset with mstat := 2 } : State).mstat.getLsbD 1 = true ∧ State.reset.mstat.getLsbD 1 = false ∧
    regionKind State.reset.cfg.dmMap (addrOut State.reset (dagIdx .dag1 0)).toNat = some .ram ∧
    State.reset.dag.l[dagIdx .dag1 0] = 0 := by decide

/-- JumpsAndCalls: the condition, room for one more entry, and both states of FI. -/
theorem witness_JumpsAndCalls :
    condHolds .notAv State.reset = true ∧ State.reset.seq.pcPopPending = false ∧
    (withPcStack (List.replicate 15 0)).seq.pcStack.length < 16 ∧ State.reset.ports.fi = false ∧
    State.reset.ports.fi ≠ true := by decide

theorem witness_Returns :
    condHolds .always State.reset = true ∧ State.reset.seq.pcPopPending = false ∧ (withPcStack [1]).seq.pcStack = [1] ∧
    ({ State.reset with seq := { State.reset.seq with stsStack := [{ astat := 1, mstat := 2, imask := 3 }] } } :
      State).seq.stsStack = [{ astat := 1, mstat := 2, imask := 3 }] := by decide

/-- StackFaults: each stack exactly full, and each empty. -/
theorem witness_StackFaults :
    State.reset.seq.pcPopPending = false ∧ 16 ≤ (withPcStack (List.replicate 16 0)).seq.pcStack.length ∧
    (Reg.i 0).isTopReg = true ∧
    Config.adsp2181.stsStackDepth ≤ (List.replicate 12 ({ astat := 0, mstat := 0, imask := 0 } : StsEntry)).length ∧
    Config.adsp2181.cntrStackDepth ≤ ([1, 2, 3, 4] : List Addr).length ∧ Config.adsp2181.cntrFirstLoadPushes = true ∧
    State.reset.seq.pcStack = [] ∧ State.reset.seq.loopStack = [] ∧ State.reset.seq.cntrStack = [] ∧
    State.reset.seq.stsStack = [] := by decide

/-- DoUntilEnters: room for one more loop, four loops open, and the same end address. -/
theorem witness_DoUntilEnters :
    State.reset.seq.pcPopPending = false ∧ (List.replicate 3 ({ last := 1, term := .eq } : LoopEntry)).length < 4 ∧
    State.reset.seq.pcStack.length < 16 ∧ 4 ≤ (List.replicate 4 ({ last := 1, term := .eq } : LoopEntry)).length ∧
    ({ last := 1, term := .eq } : LoopEntry).last ≠ 2 ∧ ({ last := 2, term := .eq } : LoopEntry).last = 2 := by decide

/-- StackControl: every stack able to do all four actions at once, with POP STS and with PUSH STS. -/
theorem witness_StackControl :
    State.reset.seq.pcPopPending = false ∧
    ({ State.reset with seq := { State.reset.seq with
        pcStack := [1], loopStack := [{ last := 1, term := .ce }], cntrStack := [1]
        stsStack := [{ astat := 0, mstat := 0, imask := 0 }] } } : State).seq.stsStack ≠ [] ∧
    (withPcStack [1]).seq.pcStack ≠ [] ∧ State.reset.seq.stsStack.length < State.reset.cfg.stsStackDepth := by decide

theorem witness_InterruptEnable :
    State.reset.cfg.member.hasExt = true ∧
    ({ State.reset with int := { State.reset.int with ints := false } } : State).int.ints = false ∧
    exec .nop State.reset = .next State.reset := ⟨rfl, rfl, rfl⟩

theorem witness_FlagOutputs :
    memberHas State.reset.cfg.member (.flagOut .set .toggle .reset .set .mv) = true ∧
    condHolds .mv { State.reset with astat := 0x40 } = true := by decide

theorem witness_ComputeWithMove :
    clauseWrites .result (.alu .add .ay0 .ax0) .ax0 = false ∧ clauseWrites .result (.mac ⟨.mul, .ss⟩ .my0 .mx0) .ar = false ∧
    clauseWrites .feedback (.alu .add .ay0 .ax0) .ar = false ∧ shiftWrites (.lshift .hi true) .se = false ∧
    shiftWrites .expadj .sr0 = false := by decide

/-- ComputeWithRead, ComputeWithWrite and DualReads: both memories accessible through I0 and I4. -/
theorem witness_ComputeWithMemory :
    dmReadable threeKindsIndirect (addrOut threeKindsIndirect (dagIdx .dag1 0)) ∧
    dmWritable threeKindsIndirect (addrOut threeKindsIndirect (dagIdx .dag1 0)) ∧
    pmReadable threeKindsIndirect (addrOut threeKindsIndirect (dagIdx .dag2 0)) ∧
    pmWritable threeKindsIndirect (addrOut threeKindsIndirect (dagIdx .dag2 0)) ∧
    clauseWrites .feedback (.mac ⟨.mul, .ss⟩ .my0 .mx0) .mr0 = false ∧ shiftWrites .expHi .sr1 = false :=
  ⟨.inl ⟨.inl (by decide), by decide⟩, .inl (by decide), .inl ⟨.inl (by decide), by decide⟩, .inl (by decide), rfl, rfl⟩

theorem witness_SameDestinationFaults :
    clauseWrites .result (.mac ⟨.mul, .ss⟩ .my0 .mx0) .mr1 = true ∧ clauseWrites .result (.alu .add .ay0 .ax0) .ar = true ∧
    shiftWrites (.norm .lo false) .sr1 = true ∧ shiftWrites .expLo .se = true := by decide

theorem witness_StepRunsDecoded :
    NoInterrupt (oneWord 0x412340) ∧ (∃ pend, LatchesNow (oneWord 0x412340) pend) ∧
    Fetches (oneWord 0x412340) 0x412340 ∧
    decodeWith (oneWord 0x412340).cfg.codes 0x412340 = .ok (.loadDreg 0x1234 .ax0) ∧
    (oneWord 0x412340).seq.pcPopPending = false ∧ OutsideLoopEnd (oneWord 0x412340) :=
  ⟨oneWord_noInterrupt _, latches _, oneWord_fetches _, rfl, rfl, fun _ _ h => absurd h (List.cons_ne_nil _ _).symm⟩

/-- LoopEndGoesOn: a taken JUMP at the end of a loop, and a NOP whose condition is not met (CNTR = 2, and EQ). -/
theorem witness_LoopEndGoesOn (pend : List Bool) :
    NoInterrupt (loopWord 0x18005F .eq 0 1) ∧ Fetches (loopWord 0x18005F .eq 0 1) 0x18005F ∧
    decodeWith (loopWord 0x18005F .eq 0 1).cfg.codes 0x18005F = .ok (.jump 5 .always) ∧
    AllowedHere (.jump 5 .always) (loopWord 0x18005F .eq 0 1) ∧
    (∃ t, exec (.jump 5 .always) (enteredAtEnd { last := 0, term := .eq } pend (loopWord 0x18005F .eq 0 1)) = .next t ∧
      t.seq.transfer = some 5) ∧
    NoInterrupt (loopWord 0 .ce 2 0) ∧ Fetches (loopWord 0 .ce 2 0) 0 ∧ AllowedHere .nop (loopWord 0 .ce 2 0) ∧
    (∃ t, exec .nop (enteredAtEnd { last := 0, term := .ce } pend (loopWord 0 .ce 2 0)) = .next t ∧
      t.seq.transfer = none ∧ t.seq.pcStack = [1]) ∧ ¬ TermMet .ce (loopWord 0 .ce 2 0) := by
  refine ⟨loopWord_noInterrupt _ _ _ _, loopWord_fetches _ _ _ _, rfl, ?_, ⟨_, rfl, rfl⟩, loopWord_noInterrupt _ _ _ _,
    loopWord_fetches _ _ _ _, ?_, ⟨_, rfl, rfl, rfl⟩, ?_⟩
  · intro e rest h _
    exact ⟨rfl, fun _ => rfl⟩
  · intro e rest h _
    exact ⟨rfl, fun _ => rfl⟩
  · show ¬ (2#14).toNat = 1
    decide

/-- LoopExit: NOP at the end of a CE loop with CNTR = 1, with the counter stack empty and with one entry on it, and of
an EQ loop. -/
theorem witness_LoopExit (pend : List Bool) :
    let full : State := { loopWord 0 .ce 1 0 with seq := { (loopWord 0 .ce 1 0).seq with cntrStack := [7] } }
    NoInterrupt (loopWord 0 .ce 1 0) ∧ Fetches (loopWord 0 .ce 1 0) 0 ∧
    decodeWith (loopWord 0 .ce 1 0).cfg.codes 0 = .ok .nop ∧
    AllowedHere .nop (loopWord 0 .ce 1 0) ∧ TermMet .ce (loopWord 0 .ce 1 0) ∧ TermMet .eq (loopWord 0 .eq 0 1) ∧
    (∃ t, exec .nop (enteredAtEnd { last := 0, term := .ce } pend (loopWord 0 .ce 1 0)) = .next t ∧
      t.seq.transfer = none ∧ t.seq.pcStack = [1] ∧ t.seq.loopStack = [{ last := 0, term := .ce }] ∧
      t.seq.cntrStack = []) ∧
    NoInterrupt full ∧ Fetches full 0 ∧ AllowedHere .nop full ∧ TermMet .ce full ∧
    (∃ t, exec .nop (enteredAtEnd { last := 0, term := .ce } pend full) = .next t ∧
      t.seq.transfer = none ∧ t.seq.pcStack = [1] ∧ t.seq.loopStack = [{ last := 0, term := .ce }] ∧
      t.seq.cntrStack = [7]) := by
  refine ⟨loopWord_noInterrupt _ _ _ _, loopWord_fetches _ _ _ _, rfl, ?_, rfl, rfl, ⟨_, rfl, rfl, rfl, rfl, rfl⟩,
    noInterrupt_masked _ rfl, oneWord_fetches 0, ?_, rfl, ⟨_, rfl, rfl, rfl, rfl, rfl⟩⟩
  all_goals exact fun _ _ _ _ => ⟨rfl, fun _ => rfl⟩

/-- LoopEndRestrictions: IDLE in any loop, and OWRCNTR = AX0 in a CE loop. -/
theorem witness_LoopEndRestrictions :
    NoInterrupt (loopWord 0x028000 .eq 0 0) ∧ Fetches (loopWord 0x028000 .eq 0 0) 0x028000 ∧
    decodeWith (loopWord 0x028000 .eq 0 0).cfg.codes 0x028000 = .ok .idle ∧ neverLast .idle = true ∧
    (loopWord 0x028000 .eq 0 0).seq.loopStack = [{ last := 0, term := .eq }] ∧
    touchesCntr (.moveReg .owrcntr (.dreg .ax0)) = true ∧
    decodeWith (loopWord 0x0D0CD0 .ce 1 0).cfg.codes 0x0D0CD0 = .ok (.moveReg .owrcntr (.dreg .ax0)) ∧
    Fetches (loopWord 0x0D0CD0 .ce 1 0) 0x0D0CD0 :=
  ⟨loopWord_noInterrupt _ _ _ _, loopWord_fetches _ _ _ _, rfl, rfl, rfl, rfl, rfl, loopWord_fetches _ _ _ _⟩

/-- A NOP at 0 with a pop pending. -/
def pendingPop : State :=
  { oneWord 0 with seq := { State.reset.seq with pcStack := [0x0123], pcPopPending := true } }

theorem witness_DelayedPop (pend : List Bool) :
    NoInterrupt pendingPop ∧ (∃ p, LatchesNow pendingPop p) ∧ Fetches pendingPop 0 ∧
    decodeWith pendingPop.cfg.codes 0 = .ok .nop ∧
    pendingPop.seq.pcPopPending = true ∧ OutsideLoopEnd pendingPop ∧
    (∃ t, exec .nop (entered pend pendingPop) = .next t ∧ t.seq.pcStack = [0x0123]) :=
  ⟨noInterrupt_masked _ rfl, latches _, oneWord_fetches 0, rfl, rfl,
    fun _ _ h => absurd h (List.cons_ne_nil _ _).symm, _, rfl, rfl⟩

/-- PcPopHazards: the pending pop alone, an interrupt to be taken beside it, and a loop end beside it. -/
theorem witness_PcPopHazards :
    pendingPop.seq.pcPopPending = true ∧ condHolds .always pendingPop = true ∧ (Reg.l 0).isTopReg = true ∧
    Candidate { pendingPop with int := { pendingPop.int with
      imask := 0x200, irqPending := true :: List.replicate 9 false, icntl := 4 } } 0
      { Config.edgeSource "IRQ2" 0x0004#14 9 (some 8) (some 7) with sensitivity := .icntlBit 2 } ∧
    pendingPop.cfg.topPcPopInt = .fault ∧
    AllowedHere .nop { pendingPop with seq := { pendingPop.seq with loopStack := [{ last := 0, term := .ce }] } } := by
  refine ⟨rfl, rfl, rfl, ⟨rfl, .inl rfl, by decide, rfl⟩, rfl, ?_⟩
  intro e rest h _
  exact ⟨rfl, fun _ => rfl⟩

/-- SelfModifyFaults: a step of each of the three PM writes, and a state whose next word was just written. -/
theorem witness_SelfModifyFaults :
    (NoInterrupt (oneWord 0x580000) ∧ Fetches (oneWord 0x580000) 0x580000 ∧
      decodeWith (oneWord 0x580000).cfg.codes 0x580000 = .ok (.writePmInd .ax0 0 0) ∧
      ∃ t, step (oneWord 0x580000) = .next t) ∧
    (Fetches (oneWord 0x5A6000) 0x5A6000 ∧
      decodeWith (oneWord 0x5A6000).cfg.codes 0x5A6000 = .ok (.compWritePm .result (.alu .add .ay0 .ax0) .ax0 0 0) ∧
      ∃ t, step (oneWord 0x5A6000) = .next t) ∧
    (Fetches (oneWord 0x118000) 0x118000 ∧
      decodeWith (oneWord 0x118000).cfg.codes 0x118000 = .ok (.shiftWritePm (.lshift .hi false) .si .ax0 0 0) ∧
      ∃ t, step (oneWord 0x118000) = .next t) ∧
    NoInterrupt { State.reset with mem := { State.reset.mem with pmWritten := some 0 } } ∧
    State.reset.int.idle = false :=
  ⟨⟨oneWord_noInterrupt _, oneWord_fetches _, rfl, _, rfl⟩, ⟨oneWord_fetches _, rfl, _, rfl⟩,
    ⟨oneWord_fetches _, rfl, _, rfl⟩, noInterrupt_masked _ rfl, rfl⟩

/-- InterruptTaken: the source of highest priority, with one place left on both stacks and NOP at its vector. -/
def irqState : State :=
  { memIn [(0x0004, 0)] [] with
    int := { State.reset.int with imask := 0x200, irqPending := true :: List.replicate 9 false, icntl := 4 }
    seq := { State.reset.seq with
      pc := 0x0123, pcStack := List.replicate 15 0
      stsStack := List.replicate 11 { astat := 0, mstat := 0, imask := 0 } } }

theorem witness_InterruptTaken :
    Candidate irqState 0
      { Config.edgeSource "IRQ2" 0x0004#14 9 (some 8) (some 7) with sensitivity := .icntlBit 2 } ∧
    (∀ j src, j < 0 → ¬ Candidate irqState j src) ∧ (∃ pend, LatchesNow irqState pend) ∧
    irqState.seq.pcPopPending = false ∧ irqState.seq.pcStack.length < 16 ∧
    irqState.seq.stsStack.length < irqState.cfg.stsStackDepth ∧ decodeWith irqState.cfg.codes 0 = .ok .nop :=
  ⟨⟨rfl, .inl rfl, by decide, rfl⟩, fun _ _ h => absurd h (by omega), latches _, rfl, by decide, by decide, rfl⟩

/-- A latch set by an IFC force bit is taken like any request, also of a level-sensitive source (R442): IRQ2 goes to
0x0004 (R444) and runs the NOP there. Entry clears the latch if ICNTL bit 2 makes IRQ2 edge-sensitive and not if it is
level-sensitive (R443). -/
theorem test_forced_interrupt_latch :
    (nextOf (step { irqState with int := { irqState.int with icntl := 0 } })).map
      (fun t => (t.seq.pc, t.seq.pcStack.head?, t.int.imask, t.int.irqPending[0]?)) =
      some (0x0005, some 0x0123, 0, some true) ∧
    (nextOf (step irqState)).map (fun t => (t.seq.pc, t.int.irqPending[0]?)) = some (0x0005, some false) :=
  ⟨rfl, rfl⟩

/-- InterruptTaken where the configuration sets entryMask for the first source only: with nesting enabled that source
keeps IMASK, and the second has the function of R446. -/
def maskRules : Config :=
  { Config.adsp2181 with entryMask := [.ifIcntl 4 (.leaf 0xFFFF 0) (.leaf 0 0)] }

theorem test_entryMask_configured :
    maskRules.entryMask[0]? = some (.ifIcntl 4 (.leaf 0xFFFF 0) (.leaf 0 0)) ∧ maskRules.entryMask[1]? = none ∧
    (nextOf (step { irqState with cfg := maskRules, int := { irqState.int with icntl := 0x14, imask := 0x2A5 } })).map
      (fun t => (t.seq.pc, t.int.imask)) = some (0x0005, 0x2A5) ∧
    entryMask maskRules 1 0x3FF 0x10 = 0x200 ∧ entryMask maskRules 1 0x3FF 0 = 0 :=
  ⟨rfl, rfl, rfl, by decide, by decide⟩

/-- InterruptTaken: the source of lowest priority, the others masked. -/
theorem witness_InterruptTaken_last :
    let s : State := { irqState with int := { irqState.int with imask := 1, irqPending := List.replicate 10 true } }
    Candidate s 9 { Config.edgeSource "timer" 0x0028#14 0 (some 15) (some 0) with timer := true } ∧
    (∀ j src, j < 9 → ¬ Candidate s j src) := by
  refine ⟨⟨rfl, .inl rfl, by decide, rfl⟩, fun j src hj hc => ?_⟩
  obtain ⟨hk, -, hm, -⟩ := hc
  have hb : src.maskBit ≠ 0 := by
    interval_cases j <;> (cases hk; decide)
  have hm' : (1#16).getLsbD src.maskBit = true := hm
  rw [BitVec.getLsbD_one] at hm'
  simp at hm'
  exact hb hm'

theorem witness_IdleWaits :
    let s : State := { State.reset with int := { State.reset.int with idle := true } }
    s.int.idle = true ∧ NoInterrupt s ∧ ∃ pend, LatchesNow s pend :=
  ⟨rfl, noInterrupt_masked _ rfl, latches _⟩

/-- ResetWellShaped: an image with words at both ends of PM and DM, and one that stands outside the maps. -/
theorem witness_ResetWellShaped :
    Image.fits Config.adsp2181 { pm := [(0, 0x18000F), (0x3FFF, 0)], dm := [(0, 1), (0x3FFF, 2)] } = true ∧
    Image.fits threeKinds { pm := [(48, 0)], dm := [] } = false := by decide

/-! The end of a run (R362), with every source masked. -/

theorem noInterruptToCome_masked (s : State) (h : s.int.imask = 0) : noInterruptToCome s :=
  .inr fun k src _ hm => by simp [h] at hm

/-- JUMP (I4) with I4 = 0 at address 0. -/
theorem test_finished_indirect_jump : finished (oneWord 0x0B000F) :=
  .inl ⟨noInterruptToCome_masked _ rfl, .inr rfl⟩

/-- JUMP 0 at address 0. -/
theorem test_finished_direct_jump : finished (oneWord 0x18000F) :=
  .inl ⟨noInterruptToCome_masked _ rfl, .inr rfl⟩

/-- InactiveBankKept, StepKeepsWellShaped and StepKeepsSettings: a step that answers a next state. -/
theorem witness_step :
    wellShaped (oneWord 0x412340) = true ∧ (nextOf (step (oneWord 0x412340))).isSome = true := by decide

end Sys2Proof.Machine.Tests
end

section
/-! The small facts the proofs of `10_state.md` need: what evaluating a condition leaves unchanged, the source
registers whose read has no side effect, the stack operations that stack control asks for, a flag output pin, and a
step that runs one instruction away from a loop end. -/

namespace Sys2Proof.Machine

open Claims

/-! Conditions (R48): only CNTR can differ afterwards. -/

theorem afterCond_seq (c : Cond) (s : State) :
    (afterCond c s).seq = { s.seq with cntr := (afterCond c s).seq.cntr } := by
  unfold afterCond; split <;> rfl

@[simp] theorem afterCond_int (c : Cond) (s : State) : (afterCond c s).int = s.int := by
  unfold afterCond; split <;> rfl
@[simp] theorem afterCond_ports (c : Cond) (s : State) : (afterCond c s).ports = s.ports := by
  unfold afterCond; split <;> rfl
@[simp] theorem afterCond_events (c : Cond) (s : State) : (afterCond c s).events = s.events := by
  unfold afterCond; split <;> rfl
@[simp] theorem afterCond_pcStack (c : Cond) (s : State) : (afterCond c s).seq.pcStack = s.seq.pcStack := by
  rw [afterCond_seq]
@[simp] theorem afterCond_stsStack (c : Cond) (s : State) : (afterCond c s).seq.stsStack = s.seq.stsStack := by
  rw [afterCond_seq]
@[simp] theorem afterCond_pcPopPending (c : Cond) (s : State) :
    (afterCond c s).seq.pcPopPending = s.seq.pcPopPending := by
  rw [afterCond_seq]

/-! Reading a register (R30). -/

/-- What a register reads as does not depend on the word of the instruction, which only a fault carries. -/
theorem readReg_word {w : PmWord} {r : Reg} {s : State} {p : Word × State} (w' : PmWord)
    (h : readReg w r s = .ok p) : readReg w' r s = .ok p := by
  cases r with
  | ifc | owrcntr => simp [readReg] at h
  | _ => exact h

/-- Apart from RX0 and RX1 a read gives the bus value and leaves the state as it was. -/
theorem regReads_busValue {r : Reg} {s u : State} {v : Word} (h : RegReads r s v u) (h0 : r ≠ .rx0)
    (h1 : r ≠ .rx1) : IsBusValue r s v ∧ u = s := by
  cases r with
  | rx0 => exact absurd rfl h0
  | rx1 => exact absurd rfl h1
  | ifc | owrcntr => exact h.elim
  | _ => exact h

/-- A source register other than RX0 and RX1 is read as its bus value, by every instruction and without an effect. -/
theorem readReg_eq_busValue (r : Reg) (s : State) (hr : r.isSource = true) (h0 : r ≠ .rx0) (h1 : r ≠ .rx1) :
    ∃ v, IsBusValue r s v ∧ ∀ w, readReg w r s = .ok (v, s) := by
  obtain ⟨v, u, hread, hreads, -⟩ := readReg_reads 0 r s hr
  obtain ⟨hbus, rfl⟩ := regReads_busValue hreads h0 h1
  exact ⟨v, hbus, fun w => readReg_word w hread⟩

/-- AX0 takes all 16 bits. -/
theorem writeDreg_ax0 (v : Word) (s : State) : writeDreg .ax0 v s = setBank { activeBank s with ax0 := v } s := rfl

/-! Returns (R340). -/

theorem guardPcStack_ok {s : State} (h : s.seq.pcPopPending = false) : guardPcStack s = .ok () :=
  guardPcStack_eq_ok.mpr h

theorem returnFromSub_eq_ok {s t : State} :
    returnFromSub s = .ok t ↔
      s.seq.pcPopPending = false ∧ ∃ a rest, s.seq.pcStack = a :: rest ∧
        t = { s with seq := { s.seq with pcStack := rest, transfer := some a } } := by
  unfold returnFromSub
  simp only [result_bind_eq_ok, guardPcStack_eq_ok, Prod.exists, popPc_eq_ok]
  constructor
  · rintro ⟨-, hp, a, u, ⟨rest, hpc, rfl⟩, ht⟩
    cases ht
    exact ⟨hp, a, rest, hpc, rfl⟩
  · rintro ⟨hp, a, rest, hpc, rfl⟩
    exact ⟨(), hp, a, _, ⟨rest, hpc, rfl⟩, rfl⟩

/-! DO UNTIL (R350, R353). -/

/-- The return address in the words of the statements. -/
theorem returnAddr_eq (s : State) : returnAddr s = BitVec.ofNat 14 (s.seq.pc.toNat + 1) := by
  unfold returnAddr; bv_omega

theorem sharesLoopEnd_iff (a : Addr) (s : State) :
    sharesLoopEnd a s = true ↔ ∃ e rest, s.seq.loopStack = e :: rest ∧ e.last = a := by
  unfold sharesLoopEnd
  cases s.seq.loopStack <;> simp

theorem enterLoop_room {a : Addr} {term : Term} {s : State} (hp : s.seq.pcPopPending = false)
    (hl : s.seq.loopStack.length < loopStackDepth) (hpc : s.seq.pcStack.length < pcStackDepth) :
    enterLoop a term s = if sharesLoopEnd a s then .error .loopEndRestriction else .ok (pushLoop a term s) := by
  simp [enterLoop, guardPcStack_ok hp, Nat.not_le.mpr hl, Nat.not_le.mpr hpc]

theorem enterLoop_full {a : Addr} {term : Term} {s : State} (hp : s.seq.pcPopPending = false)
    (hfull : loopStackDepth ≤ s.seq.loopStack.length ∨ pcStackDepth ≤ s.seq.pcStack.length) :
    enterLoop a term s = .ok { s with seq := { s.seq with
      loopOvf := s.seq.loopOvf || decide (loopStackDepth ≤ s.seq.loopStack.length)
      pcOvf := s.seq.pcOvf || decide (pcStackDepth ≤ s.seq.pcStack.length) } } := by
  simp [enterLoop, guardPcStack_ok hp, hfull]

/-! Stack control (R370 to R372): each field on a stack that can do what is asked. -/

/-- The state with ASTAT, MSTAT and IMASK those of an entry of the status stack, and the status stack replaced. -/
def setStatus (e : StsEntry) (q : List StsEntry) (s : State) : State :=
  { s with
    astat := e.astat, mstat := e.mstat, int := { s.int with imask := e.imask }
    seq := { s.seq with stsStack := q } }

theorem stsAction_spec (sp : StsOp) (s : State)
    (hpush : sp = .push → s.seq.stsStack.length < s.cfg.stsStackDepth) (hpop : sp = .pop → s.seq.stsStack ≠ []) :
    ∃ (e : StsEntry) (q : List StsEntry),
      stsAction sp s = .ok (setStatus e q s) ∧
      q = (if sp = .push then { astat := s.astat, mstat := s.mstat, imask := s.int.imask } :: s.seq.stsStack
        else if sp = .pop then s.seq.stsStack.tail else s.seq.stsStack) ∧
      some e = (if sp = .pop then s.seq.stsStack.head?
        else some { astat := s.astat, mstat := s.mstat, imask := s.int.imask }) := by
  cases sp with
  | keep | keepAlt => exact ⟨⟨s.astat, s.mstat, s.int.imask⟩, s.seq.stsStack, rfl, by simp, by simp⟩
  | push =>
    exact ⟨⟨s.astat, s.mstat, s.int.imask⟩, _, pushSts_eq_ok.mpr ⟨hpush rfl, rfl⟩, by simp, by simp⟩
  | pop =>
    obtain ⟨e, rest, hq⟩ := List.exists_cons_of_ne_nil (hpop rfl)
    exact ⟨e, rest, popSts_eq_ok.mpr ⟨e, rest, hq, rfl⟩, by simp [hq], by simp [hq]⟩

theorem optionally_popCntr_spec (cp : Bool) (s : State) (h : cp = true → s.seq.cntrStack ≠ []) :
    ∃ (v : Addr) (q : List Addr),
      optionally cp popCntr s = .ok { s with seq := { s.seq with cntr := v, cntrStack := q } } ∧
      q = (if cp then s.seq.cntrStack.tail else s.seq.cntrStack) ∧
      some v = (if cp then s.seq.cntrStack.head? else some s.seq.cntr) := by
  cases cp with
  | false => exact ⟨s.seq.cntr, s.seq.cntrStack, rfl, rfl, rfl⟩
  | true =>
    obtain ⟨v, rest, hq⟩ := List.exists_cons_of_ne_nil (h rfl)
    exact ⟨v, rest, popCntr_eq_ok.mpr ⟨v, rest, hq, rfl⟩, by simp [hq], by simp [hq]⟩

theorem optionally_dropPc_spec (pp : Bool) (s : State)
    (h : pp = true → s.seq.pcPopPending = false ∧ s.seq.pcStack ≠ []) :
    optionally pp dropPc s = .ok { s with seq := { s.seq with
      pcStack := if pp then s.seq.pcStack.tail else s.seq.pcStack } } := by
  cases pp with
  | false => rfl
  | true =>
    obtain ⟨hp, hne⟩ := h rfl
    obtain ⟨a, rest, hq⟩ := List.exists_cons_of_ne_nil hne
    have hpop := popPc_eq_ok.mpr ⟨rest, hq, rfl⟩
    simp [optionally, dropPc, guardPcStack_ok hp, hpop, hq]

theorem optionally_dropLoop_spec (lp : Bool) (s : State) (h : lp = true → s.seq.loopStack ≠ []) :
    optionally lp dropLoop s = .ok { s with seq := { s.seq with
      loopStack := if lp then s.seq.loopStack.tail else s.seq.loopStack } } := by
  cases lp with
  | false => rfl
  | true =>
    obtain ⟨e, rest, hq⟩ := List.exists_cons_of_ne_nil (h rfl)
    have hpop := popLoop_eq_ok.mpr ⟨rest, hq, rfl⟩
    simp [optionally, dropLoop, hpop, hq]

/-! Flag output pins (R345). -/

theorem pinAfter_eq (op : PinOp) (old : Bool) : pinAfter op old = pinTo op old := by cases op <;> rfl

@[simp] theorem putPin_pinOf (p : Pin) (ports : Ports) : putPin p (pinOf p ports) ports = ports := by
  cases p <;> rfl

/-- A field drives its pin, with an event if the pin changes. -/
theorem drivePin_eq (p : Pin) (op : PinOp) (s : State) :
    drivePin p op s = { s with
      ports := putPin p (pinTo op (pinOf p s.ports)) s.ports
      events := s.events ++ pinEvent p op (pinOf p s.ports) } := by
  unfold drivePin pinEvent
  rw [pinAfter_eq]
  split
  · next hkept => rw [hkept]; simp
  · rfl

theorem drivePins_eq (fl2 fl1 fl0 fo : PinOp) (s : State) :
    drivePins fl2 fl1 fl0 fo s = { s with
      ports := { s.ports with
        fl2 := pinTo fl2 s.ports.fl2, fl1 := pinTo fl1 s.ports.fl1, fl0 := pinTo fl0 s.ports.fl0
        fo := pinTo fo s.ports.fo }
      events := s.events ++ (pinEvent .fl2 fl2 s.ports.fl2 ++ (pinEvent .fl1 fl1 s.ports.fl1 ++
        (pinEvent .fl0 fl0 s.ports.fl0 ++ pinEvent .fo fo s.ports.fo))) } := by
  simp [drivePins, drivePin_eq, pinOf, putPin]

/-- A member that has the named pins runs the flag-out instruction on them. -/
theorem exec_flagOut {fl2 fl1 fl0 fo : PinOp} {c : Cond} {s : State}
    (hm : memberHas s.cfg.member (.flagOut fl2 fl1 fl0 fo c) = true) :
    exec (.flagOut fl2 fl1 fl0 fo c) s = answer (ifCond c (fun t => .ok (drivePins fl2 fl1 fl0 fo t)) s) := by
  have hpins : (usesFl fl2 fl1 fl0 && !s.cfg.member.hasFL) = false := by
    have hm' : (s.cfg.member.hasFL || !usesFl fl2 fl1 fl0) = true := hm
    cases h : s.cfg.member.hasFL <;> simp_all
  show execFlagOut fl2 fl1 fl0 fo c s = _
  simp [execFlagOut, hpins]

/-! Interrupts (R443, R446). -/

theorem nestingMask_getLsbD (cfg : Config) (k : Nat) (imask icntl : Word) (b : Nat) (hb : b < 16) :
    (nestingMask cfg k imask icntl).getLsbD b =
      (icntl.getLsbD 4 && imask.getLsbD b && !((cfg.intTable.drop k).any fun x => x.maskBit == b)) := by
  unfold nestingMask
  cases icntl.getLsbD 4 with
  | false => simp
  | true => simp [clearMaskBits_getLsbD _ _ _ hb]

/-- The state in which the handler of source `k` begins, where sampling the requests has left the latches `pend`. -/
def interruptEntry (k : Nat) (src : IntSource) (pend : List Bool) (s : State) : State :=
  { s with
    seq := { s.seq with
      pc := src.vector
      pcStack := s.seq.pc :: s.seq.pcStack
      stsStack := { astat := s.astat, mstat := s.mstat, imask := s.int.imask } :: s.seq.stsStack }
    int := { s.int with
      irqPending := latchesAfterEntry s.int.icntl k src pend
      imask := entryMask s.cfg k s.int.imask s.int.icntl
      idle := false } }

/-- With no pop pending and room on both stacks, dispatch takes the interrupt. -/
theorem dispatchInterrupt_takes {s : State} {k : Nat} {src : IntSource} {pend : List Bool}
    (h : interruptToTake s = some (k, src)) (hpend : LatchesNow s pend) (hp : s.seq.pcPopPending = false)
    (hpc : s.seq.pcStack.length < pcStackDepth) (hsts : s.seq.stsStack.length < s.cfg.stsStackDepth) :
    dispatchInterrupt s = .ok (interruptEntry k src pend s) := by
  have hsample : sampleRequests s = { s with int := { s.int with irqPending := pend } } := by
    rw [(latchesNow_iff s pend).mp hpend]; rfl
  have htake : takeInterrupt k src (sampleRequests s) = .ok (interruptEntry k src pend s) := by
    rw [hsample]
    exact takeInterrupt_eq_ok.mpr ⟨hpc, hsts, rfl⟩
  have hp' : (sampleRequests s).seq.pcPopPending = false := hp
  simp [dispatchInterrupt, h, takeUnlessPopPending, hp', htake]

/-! One step away from a loop end (R335). -/

/-- Away from a loop end, with no pop pending, the sequencer goes to the transfer the instruction takes or to the next
address. -/
theorem completeInstr_away {s : State} (t : State) (haway : OutsideLoopEnd s) (hp : s.seq.pcPopPending = false) :
    completeInstr s t = .ok (stepTo (t.seq.transfer.getD (s.seq.pc + 1)) t) := by
  have hend := atLoopEnd_none s haway
  cases htr : t.seq.transfer <;>
    simp [completeInstr, advance, htr, hend, delayedPop, hp, stepTo, tick, setPc]

theorem runInstr_away {s : State} (i : Instr) (haway : OutsideLoopEnd s) (hp : s.seq.pcPopPending = false) :
    runInstr i s =
      onNext (fun u => stepTo (u.seq.transfer.getD (s.seq.pc + 1)) u) (exec i (entered s.int.irqPending s)) := by
  have hend := atLoopEnd_none s haway
  have hfree : loopEndRestricted i s = false := by simp [loopEndRestricted, hend]
  have hbegin : beginInstr s = entered s.int.irqPending s := beginInstr_away s s.int.irqPending haway
  simp only [runInstr, hfree, hp, hbegin, Bool.false_and, Bool.false_eq_true, if_false]
  cases exec i (entered s.int.irqPending s) with
  | next t => simp [onNext, completeInstr_away t haway hp]
  | fault f => rfl
  | refused r => rfl

/-- A step after whose dispatch the processor fetches `i` runs `i`. -/
theorem step_of_dispatch {s t : State} {w : PmWord} {i : Instr} (hd : dispatchInterrupt s = .ok t)
    (hf : Fetches t w) (hi : decodeWith t.cfg.codes w = .ok i) : step s = runInstr i t := by
  simp [step, hd, hf.1, runNext, fetch_of_fetches t w hf, hi]

end Sys2Proof.Machine
end

section
/-! The obligations of `10_state.md` about single instructions and interrupt entry. -/

namespace Sys2Proof.Machine

open Claims

/-- Settles O22: the bus value is read once and then written to AX0 or stored. -/
theorem busValues : Obligations.BusValues := by
  intro r s hr h0 h1
  obtain ⟨v, hbus, hread⟩ := readReg_eq_busValue r s hr h0 h1
  refine ⟨v, hbus, ?_, fun a hram => ?_⟩
  · show answer (regToReg _ (.dreg .ax0) r s) = _
    simp [regToReg, hread, writeReg, writeDreg_ax0]
  · have hwrite : writeDm a v s = .ok { s with mem := { s.mem with dm := s.mem.dm.write a.toNat v } } :=
      writeDm_eq_ok.mpr (.inl ⟨hram, rfl⟩)
    have hexec : exec (.writeDm a r) s = answer (writeDm a v s) := by
      show answer (regToDm _ a r s) = _
      simp [regToDm, hread]
    rw [hexec, hwrite]
    exact ⟨_, rfl, Memory.read_write_same s.mem.dm a.toNat v⟩

/-- Settles O34: each return pops on the state after the condition, which has the stacks of the state before. -/
theorem returns : Obligations.Returns := by
  intro c s a rest hc hp hpc
  refine ⟨?_, fun e more hsts => ?_⟩
  · show answer (ifCond c returnFromSub s) = _
    rw [ifCond_true _ hc, answer_eq_next, returnFromSub_eq_ok]
    exact ⟨by simpa using hp, a, rest, by simpa using hpc, rfl⟩
  · show answer (ifCond c returnFromInterrupt s) = _
    rw [ifCond_true _ hc, answer_eq_next, returnFromInterrupt_eq_ok]
    exact ⟨by simpa using hp, a, rest, e, more, by simpa using hpc, by simpa using hsts, by
      rw [afterCond_int]; rfl⟩

/-- Settles O36: room on both stacks, with another or the same end address, and a full stack. -/
theorem doUntilEnters : Obligations.DoUntilEnters := by
  intro a term s hp
  have hexec : exec (.doUntil a term) s = answer (enterLoop a term s) := rfl
  refine ⟨fun hl hpc hother => ?_, fun hfull => ?_, fun hl hpc hsame => ?_⟩
  · have hshare : sharesLoopEnd a s = false := by
      rw [← Bool.not_eq_true, sharesLoopEnd_iff]
      rintro ⟨e, rest, hq, he⟩
      exact hother e rest hq he
    rw [hexec, enterLoop_room hp hl hpc, hshare, ← returnAddr_eq]
    rfl
  · rw [hexec, enterLoop_full hp hfull]
    rfl
  · rw [hexec, enterLoop_room hp hl hpc, if_pos ((sharesLoopEnd_iff a s).mpr hsame)]
    rfl

/-- Settles O37: the four fields act one after the other on four different stacks. -/
theorem stackControl : Obligations.StackControl := by
  intro pp lp cp sp s hpc hloop hcntr hpush hpop
  obtain ⟨e, sts, hsts, hstsq, he⟩ := stsAction_spec sp s hpush hpop
  obtain ⟨v, cq, hc, hcq, hv⟩ := optionally_popCntr_spec cp (setStatus e sts s) hcntr
  show ∃ t, answer (controlStacks pp lp cp sp s) = .next t ∧ _
  rw [controlStacks, hsts, result_bind_ok, hc, result_bind_ok, optionally_dropPc_spec pp, result_bind_ok,
    optionally_dropLoop_spec lp]
  · exact ⟨_, rfl, rfl, rfl, hcq, hv, hstsq, he, rfl⟩
  · exact hloop
  · exact hpc

/-- Settles O41: the pins are driven one after the other on the state after the condition. -/
theorem flagOutputs : Obligations.FlagOutputs := by
  intro fl2 fl1 fl0 fo c s hm hc
  rw [exec_flagOut hm, ifCond_true _ hc, drivePins_eq, afterCond_ports, afterCond_events]
  rfl

/-- Settles O54: the first candidate is the interrupt dispatch takes, and the step goes on at its vector. -/
theorem interruptTaken : Obligations.InterruptTaken := by
  intro s k src pend hcand hfirst hpend hp hpc hsts
  have hdispatch : dispatchInterrupt s = .ok (interruptEntry k src pend s) :=
    dispatchInterrupt_takes (interruptToTake_of_candidate s k src hcand hfirst) hpend hp hpc hsts
  refine ⟨interruptEntry k src pend s, rfl, fun hnone b hb => ?_, fun rule hrule b hb => ?_,
    fun w i hf hi haway => ?_⟩
  · show (entryMask s.cfg k s.int.imask s.int.icntl).getLsbD b = _
    rw [entryMask_none hnone, nestingMask_getLsbD _ _ _ _ _ hb]
  · show (entryMask s.cfg k s.int.imask s.int.icntl).getLsbD b = _
    rw [entryMask_some hrule, lowBits_getLsbD _ _ _ hb]
  · rw [step_of_dispatch hdispatch hf hi, runInstr_away i haway hp]
    rfl

end Sys2Proof.Machine
end

section
/-! What no step changes (O58): the configuration, and an overflow bit that is set. Everything but DO UNTIL leaves even
the overflow bits and the step counter as they are, which makes the frame an equation that rewrites through every
shared operation. -/

namespace Sys2Proof.Machine

/-- The parts of the state that only the end of a step and DO UNTIL may change. -/
structure Settings where
  cfg : Config
  steps : Nat
  pcOvf : Bool
  loopOvf : Bool
  cntrOvf : Bool
  stsOvf : Bool

/-- The settings of a state; two states with the same settings differ in none of these parts. -/
def settings (s : State) : Settings :=
  { cfg := s.cfg, steps := s.steps
    pcOvf := s.seq.pcOvf, loopOvf := s.seq.loopOvf, cntrOvf := s.seq.cntrOvf, stsOvf := s.seq.stsOvf }

/-! The updates. -/

@[simp] theorem settings_setBank (b : Bank) (s : State) : settings (setBank b s) = settings s := by
  simp [settings]
@[simp] theorem settings_setAstat (v : BitVec 8) (s : State) : settings (setAstat v s) = settings s := rfl
@[simp] theorem settings_setMstat (v : BitVec 7) (s : State) : settings (setMstat v s) = settings s := rfl
@[simp] theorem settings_setPx (v : BitVec 8) (s : State) : settings (setPx v s) = settings s := rfl
@[simp] theorem settings_emit (e : Event) (s : State) : settings (emit e s) = settings s := rfl
@[simp] theorem settings_countDraw (s : State) : settings (countDraw s) = settings s := rfl
@[simp] theorem settings_setI (a : DagIdx) (v : Addr) (s : State) : settings (setI a v s) = settings s := rfl
@[simp] theorem settings_setCntr (v : Addr) (s : State) : settings (setCntr v s) = settings s := rfl
@[simp] theorem settings_setPc (a : Addr) (s : State) : settings (setPc a s) = settings s := rfl
@[simp] theorem settings_transferTo (a : Addr) (s : State) : settings (transferTo a s) = settings s := rfl
@[simp] theorem settings_markPcPop (s : State) : settings (markPcPop s) = settings s := rfl
@[simp] theorem settings_pushLoop (a : Addr) (t : Term) (s : State) : settings (pushLoop a t s) = settings s := rfl

/-! The operations that always succeed. -/

@[simp] theorem settings_afterCond (c : Cond) (s : State) : settings (afterCond c s) = settings s := by
  unfold afterCond; split <;> simp
@[simp] theorem settings_afterTerm (t : Term) (s : State) : settings (afterTerm t s) = settings s := by
  unfold afterTerm; split <;> simp
@[simp] theorem settings_postModify (a b : DagIdx) (s : State) : settings (postModify a b s) = settings s := by
  rw [postModify_eq]; split <;> simp
@[simp] theorem settings_writeDreg (d : DReg) (v : Word) (s : State) : settings (writeDreg d v s) = settings s := by
  simp [writeDreg]
@[simp] theorem settings_writeAlu (z : Dest) (o : AluOut) (s : State) : settings (writeAlu z o s) = settings s := by
  cases z with
  | feedback => simp [writeAlu]
  | result => simp only [writeAlu]; split <;> simp
@[simp] theorem settings_aluStep (f : AluFn) (z : Dest) (x y : Word) (s : State) :
    settings (aluStep f z x y s) = settings s := by
  simp [aluStep]
@[simp] theorem settings_passConstStep (z : Dest) (v : Word) (s : State) :
    settings (passConstStep z v s) = settings s := by
  cases z <;> simp [passConstStep]
@[simp] theorem settings_writeDiv (o : DivOut) (s : State) : settings (writeDiv o s) = settings s := by
  simp [writeDiv]
@[simp] theorem settings_aluStatusStep (f : AluFn) (x y : Word) (s : State) :
    settings (aluStatusStep f x y s) = settings s := by
  simp [aluStatusStep]
@[simp] theorem settings_writeMac (z : Dest) (v : Acc) (s : State) : settings (writeMac z v s) = settings s := by
  cases z <;> simp [writeMac]
@[simp] theorem settings_macOp (f : MacFn) (z : Dest) (x y : Word) (s : State) :
    settings (macOp f z x y s) = settings s := by
  simp [macOp]
@[simp] theorem settings_writeSr (o : Bool) (v : BitVec 32) (s : State) : settings (writeSr o v s) = settings s := by
  simp [writeSr]
@[simp] theorem settings_writeExp (se : BitVec 8) (sign : Bool) (s : State) :
    settings (writeExp se sign s) = settings s := by
  simp [writeExp]
@[simp] theorem settings_expHi (x : Word) (s : State) : settings (expHi x s) = settings s := by simp [expHi]
@[simp] theorem settings_expHix (x : Word) (s : State) : settings (expHix x s) = settings s := by
  unfold expHix; split <;> simp
@[simp] theorem settings_expLo (x : Word) (s : State) : settings (expLo x s) = settings s := by simp [expLo]
@[simp] theorem settings_expAdj (x : Word) (s : State) : settings (expAdj x s) = settings s := by
  unfold expAdj; split <;> simp
@[simp] theorem settings_shiftOp (f : ShiftFn) (x : Word) (s : State) : settings (shiftOp f x s) = settings s := by
  cases f <;> simp [shiftOp]
@[simp] theorem settings_computeOp (z : Dest) (op : AluMac) (s : State) : settings (computeOp z op s) = settings s := by
  cases op <;> simp [computeOp]
@[simp] theorem settings_computeShift (f : ShiftFn) (x : ShiftXop) (s : State) :
    settings (computeShift f x s) = settings s := by
  simp [computeShift]
@[simp] theorem settings_drivePins (fl2 fl1 fl0 fo : PinOp) (s : State) :
    settings (drivePins fl2 fl1 fl0 fo s) = settings s := by
  rw [drivePins_eq]; rfl
@[simp] theorem settings_enterIdle (s : State) : settings (enterIdle s) = settings s := rfl
@[simp] theorem settings_sampleRequests (s : State) : settings (sampleRequests s) = settings s := rfl
@[simp] theorem settings_cntrAfterLoop (s : State) : settings (cntrAfterLoop s) = settings s := by
  unfold cntrAfterLoop; split <;> rfl
@[simp] theorem settings_beginInstr (s : State) : settings (beginInstr s) = settings s := by
  unfold beginInstr
  cases atLoopEnd s with
  | none => rfl
  | some e => exact settings_afterTerm e.term s

/-! The operations that can stop. -/

/-- Where `op` answers a state, it has left the settings alone. -/
def Keeps (op : State → Result State) : Prop := ∀ s t, op s = .ok t → settings t = settings s

/-- The same for an operation that answers a value beside the state. -/
def KeepsBy {α : Type} (op : State → Result (α × State)) : Prop :=
  ∀ s v t, op s = .ok (v, t) → settings t = settings s

theorem keeps_ok {f : State → State} (h : ∀ s, settings (f s) = settings s) : Keeps fun s => .ok (f s) := by
  rintro s t ht
  cases ht
  exact h s

/-- An operation that goes on with the value and the state of another. -/
theorem keeps_bind {α : Type} {x : State → Result (α × State)} {f : α → State → Result State}
    (hx : KeepsBy x) (hf : ∀ v, Keeps (f v)) : Keeps fun s => x s >>= fun p => f p.1 p.2 := by
  intro s t ht
  obtain ⟨⟨v, u⟩, hu, ht⟩ := result_bind_eq_ok.mp ht
  rw [hf v u t ht, hx s v u hu]

/-- An operation that goes on with the state of another. -/
theorem keeps_seq {x f : State → Result State} (hx : Keeps x) (hf : Keeps f) : Keeps fun s => x s >>= f := by
  intro s t ht
  obtain ⟨u, hu, ht⟩ := result_bind_eq_ok.mp ht
  rw [hf u t ht, hx s u hu]

/-- An operation behind a test or a value that does not change the state. -/
theorem keeps_after {α : Type} {x : State → Result α} {f : α → State → Result State} (hf : ∀ v, Keeps (f v)) :
    Keeps fun s => x s >>= fun v => f v s := by
  intro s t ht
  obtain ⟨v, -, ht⟩ := result_bind_eq_ok.mp ht
  exact hf v s t ht

theorem keeps_ifCond {c : Cond} {op : State → Result State} (h : Keeps op) : Keeps (ifCond c op) := by
  intro s t ht
  obtain ⟨-, ht⟩ | ⟨-, rfl⟩ := ifCond_eq_ok.mp ht
  · rw [h _ t ht, settings_afterCond]
  · exact settings_afterCond c s

theorem keeps_optionally {b : Bool} {op : State → Result State} (h : Keeps op) : Keeps (optionally b op) := by
  cases b with
  | false => exact keeps_ok fun _ => rfl
  | true => exact h

theorem keepsBy_readDm (a : Addr) : KeepsBy (readDm a) := by
  intro s v t h
  obtain ⟨-, -, rfl⟩ | ⟨-, -, rfl⟩ := readDm_eq_ok.mp h <;> rfl

theorem keepsBy_readPm (a : Addr) : KeepsBy (readPm a) := by
  intro s v t h
  obtain ⟨-, -, rfl⟩ | ⟨-, -, rfl⟩ := readPm_eq_ok.mp h <;> rfl

theorem keeps_writeDm (a : Addr) (v : Word) : Keeps (writeDm a v) := by
  intro s t h
  obtain ⟨-, rfl⟩ | ⟨-, rfl⟩ := writeDm_eq_ok.mp h <;> rfl

theorem keeps_writePm (a : Addr) (v : PmWord) : Keeps (writePm a v) := by
  intro s t h
  obtain ⟨-, rfl⟩ | ⟨-, rfl⟩ := writePm_eq_ok.mp h <;> rfl

theorem keepsBy_readIoSpace (a : IoAddr) : KeepsBy (readIoSpace a) := by
  intro s v t h
  obtain ⟨-, -, rfl⟩ := readIoSpace_eq_ok.mp h
  rfl

theorem keeps_writeIoSpace (a : IoAddr) (v : Word) : Keeps (writeIoSpace a v) := by
  intro s t h
  obtain ⟨-, rfl⟩ := writeIoSpace_eq_ok.mp h
  rfl

theorem keeps_pushPc (a : Addr) : Keeps (pushPc a) := by
  intro s t h
  obtain ⟨-, rfl⟩ := pushPc_eq_ok.mp h
  rfl

theorem keepsBy_popPc : KeepsBy popPc := by
  intro s v t h
  obtain ⟨rest, -, rfl⟩ := popPc_eq_ok.mp h
  rfl

theorem keepsBy_popLoop : KeepsBy popLoop := by
  intro s v t h
  obtain ⟨rest, -, rfl⟩ := popLoop_eq_ok.mp h
  rfl

theorem keeps_popCntr : Keeps popCntr := by
  intro s t h
  obtain ⟨v, rest, -, rfl⟩ := popCntr_eq_ok.mp h
  rfl

theorem keeps_pushSts : Keeps pushSts := by
  intro s t h
  obtain ⟨-, rfl⟩ := pushSts_eq_ok.mp h
  rfl

theorem keeps_popSts : Keeps popSts := by
  intro s t h
  obtain ⟨e, rest, -, rfl⟩ := popSts_eq_ok.mp h
  rfl

theorem keeps_loadCntr (v : Addr) : Keeps (loadCntr v) := by
  intro s t h
  obtain ⟨-, -, rfl⟩ | ⟨-, rfl⟩ := loadCntr_eq_ok.mp h <;> rfl

theorem keepsBy_readReg (w : PmWord) (r : Reg) : KeepsBy (readReg w r) := by
  intro s v t h
  cases r with
  | ifc | owrcntr => simp [readReg] at h
  | _ => cases h; rfl

theorem keeps_writeReg (w : PmWord) (r : Reg) (v : Word) : Keeps (writeReg w r v) := by
  intro s t h
  cases r with
  | sstat => simp [writeReg] at h
  | cntr => exact keeps_loadCntr _ s t h
  | dreg d => cases h; exact settings_writeDreg d v s
  | sb => cases h; exact settings_setBank _ s
  | _ => cases h; rfl

theorem keeps_takeInterrupt (k : Nat) (src : IntSource) : Keeps (takeInterrupt k src) := by
  intro s t h
  obtain ⟨-, -, rfl⟩ := takeInterrupt_eq_ok.mp h
  rfl

theorem keeps_returnFromInterrupt : Keeps returnFromInterrupt := by
  intro s t h
  obtain ⟨-, a, rest, e, rest', -, -, rfl⟩ := returnFromInterrupt_eq_ok.mp h
  rfl

theorem keeps_returnFromSub : Keeps returnFromSub := by
  intro s t h
  obtain ⟨-, a, rest, -, rfl⟩ := returnFromSub_eq_ok.mp h
  rfl

theorem keeps_callTo (a : Addr) : Keeps (callTo a) := by
  intro s t h
  simp only [callTo, result_bind_eq_ok, pushPc_eq_ok] at h
  obtain ⟨-, -, u, ⟨-, rfl⟩, h⟩ := h
  cases h
  rfl

theorem keeps_stsAction (sp : StsOp) : Keeps (stsAction sp) := by
  cases sp with
  | keep | keepAlt => exact keeps_ok fun _ => rfl
  | push => exact keeps_pushSts
  | pop => exact keeps_popSts

theorem keeps_dropPc : Keeps dropPc :=
  keeps_after fun _ => keeps_bind (f := fun _ t => .ok t) keepsBy_popPc fun _ => keeps_ok fun _ => rfl

theorem keeps_dropLoop : Keeps dropLoop :=
  keeps_bind (f := fun _ t => .ok t) keepsBy_popLoop fun _ => keeps_ok fun _ => rfl

theorem keeps_controlStacks (pp lp cp : Bool) (sp : StsOp) : Keeps (controlStacks pp lp cp sp) :=
  keeps_seq (keeps_stsAction sp) <| keeps_seq (keeps_optionally keeps_popCntr) <|
    keeps_seq (keeps_optionally keeps_dropPc) (keeps_optionally keeps_dropLoop)

/-! The moves, alone and beside a computation. -/

section
variable {compute : State → State} (hc : ∀ s, settings (compute s) = settings s)
include hc

theorem keeps_loadDmInd (d : DReg) (a b : DagIdx) : Keeps (loadDmInd compute d a b) := by
  intro s t h
  obtain ⟨⟨v, u⟩, hu, h⟩ := result_bind_eq_ok.mp h
  cases h
  simp [hc, keepsBy_readDm _ s v u hu]

theorem keeps_loadPmInd (d : DReg) (a b : DagIdx) : Keeps (loadPmInd compute d a b) := by
  intro s t h
  obtain ⟨⟨p, u⟩, hu, h⟩ := result_bind_eq_ok.mp h
  cases h
  simp [hc, keepsBy_readPm _ s p u hu]

theorem keeps_storeDmInd (v : Word) (a b : DagIdx) : Keeps (storeDmInd compute v a b) := by
  intro s t h
  obtain ⟨u, hu, h⟩ := result_bind_eq_ok.mp h
  cases h
  simp [hc, keeps_writeDm _ _ s u hu]

theorem keeps_storePmInd (v : Word) (a b : DagIdx) : Keeps (storePmInd compute v a b) := by
  intro s t h
  obtain ⟨u, hu, h⟩ := result_bind_eq_ok.mp h
  cases h
  simp [hc, keeps_writePm _ _ s u hu]

theorem keeps_dualLoad (pd : PmDest) (dd : DmDest) (ap bp ad bd : DagIdx) :
    Keeps (dualLoad compute pd dd ap bp ad bd) := by
  intro s t h
  obtain ⟨⟨p, u⟩, hu, h⟩ := result_bind_eq_ok.mp h
  obtain ⟨⟨v, u'⟩, hu', h⟩ := result_bind_eq_ok.mp h
  cases h
  simp [hc, keepsBy_readDm _ u v u' hu', keepsBy_readPm _ s p u hu]

theorem settings_moveBeside (d r : DReg) (s : State) : settings (moveBeside compute d r s) = settings s := by
  simp [moveBeside, hc]

end

theorem keeps_topToReg (w : PmWord) (d : Reg) : Keeps (topToReg w d) := by
  intro s t h
  obtain ⟨-, -, h⟩ := result_bind_eq_ok.mp h
  obtain ⟨a, -, h⟩ := result_bind_eq_ok.mp h
  obtain ⟨u, hu, h⟩ := result_bind_eq_ok.mp h
  cases h
  simp [keeps_writeReg _ _ _ s u hu]

theorem keeps_regToTop (w : PmWord) (r : Reg) : Keeps (regToTop w r) :=
  keeps_after fun _ => keeps_bind (f := fun v t => pushPc (v.setWidth 14) t) (keepsBy_readReg w r)
    fun v => keeps_pushPc (v.setWidth 14)

theorem keeps_regToReg (w : PmWord) (d r : Reg) : Keeps (regToReg w d r) :=
  keeps_bind (f := fun v t => writeReg w d v t) (keepsBy_readReg w r) fun v => keeps_writeReg w d v

theorem keeps_dmToReg (w : PmWord) (a : Addr) (d : Reg) : Keeps (dmToReg w a d) :=
  keeps_bind (f := fun v t => writeReg w d v t) (keepsBy_readDm a) fun v => keeps_writeReg w d v

theorem keeps_regToDm (w : PmWord) (a : Addr) (r : Reg) : Keeps (regToDm w a r) :=
  keeps_bind (f := fun v t => writeDm a v t) (keepsBy_readReg w r) fun v => keeps_writeDm a v

theorem keeps_ioToDreg (a : IoAddr) (d : DReg) : Keeps (ioToDreg a d) :=
  keeps_bind (f := fun v t => .ok (writeDreg d v t)) (keepsBy_readIoSpace a)
    fun v => keeps_ok (settings_writeDreg d v)

end Sys2Proof.Machine
end

section
/-! The instructions and the step: every instruction but DO UNTIL leaves the settings alone, DO UNTIL may set an overflow
bit, and the end of the step counts it. -/

namespace Sys2Proof.Machine

/-- Where `r` answers a next state, it has the settings of `s`. -/
def AnswerKeeps (s : State) (r : Answer) : Prop := ∀ t, r = .next t → settings t = settings s

theorem answerKeeps_next {s t : State} (h : settings t = settings s) : AnswerKeeps s (.next t) := by
  rintro u hu
  cases hu
  exact h

theorem answerKeeps_fault (s : State) (f : Fault) : AnswerKeeps s (.fault f) := by
  rintro t ⟨⟩

theorem answerKeeps_answer {op : State → Result State} (h : Keeps op) (s : State) : AnswerKeeps s (answer (op s)) :=
  fun t ht => h s t (answer_eq_next.mp ht)

theorem answerKeeps_ite {s : State} {p : Prop} [Decidable p] {r q : Answer} (hr : AnswerKeeps s r)
    (hq : AnswerKeeps s q) : AnswerKeeps s (if p then r else q) := by
  split
  · exact hr
  · exact hq

theorem answerKeeps_needsExt {w : PmWord} {op : State → Answer} {s : State} (h : AnswerKeeps s (op s)) :
    AnswerKeeps s (needsExt w op s) :=
  answerKeeps_ite h (answerKeeps_fault s _)

/-- A conditional operation that always succeeds. -/
theorem answerKeeps_ifCond {c : Cond} {f : State → State} (h : ∀ s, settings (f s) = settings s) (s : State) :
    AnswerKeeps s (answer (ifCond c (fun t => .ok (f t)) s)) :=
  answerKeeps_answer (keeps_ifCond (keeps_ok h)) s

/-- Where its clauses do not clash, a multifunction instruction answers what its operation does. -/
theorem unlessClash_eq_ok {w : PmWord} {clash : Bool} {r : Result State} {t : State} :
    unlessClash w clash r = .ok t ↔ clash = false ∧ r = .ok t := by
  cases r <;> cases clash <;> simp [unlessClash]

theorem answerKeeps_unlessClash (w : PmWord) (clash : Bool) {op : State → Result State} (h : Keeps op) (s : State) :
    AnswerKeeps s (answer (unlessClash w clash (op s))) :=
  fun t ht => h s t (unlessClash_eq_ok.mp (answer_eq_next.mp ht)).2

/-! The generic instructions. -/

theorem aluCond_keeps (f : AluFn) (z : Dest) (y : AluYop) (x : AluXop) (c : Cond) (s : State) :
    AnswerKeeps s (aluCond f z y x c s) :=
  answerKeeps_ifCond (fun t => settings_aluStep f z _ _ t) s

theorem aluCondConst_keeps (w : PmWord) (f : AluFn) (z : Dest) (k : Word) (x : AluXop) (c : Cond) (s : State) :
    AnswerKeeps s (aluCondConst w f z k x c s) :=
  answerKeeps_needsExt <| answerKeeps_ifCond (fun t => settings_aluStep f z _ _ t) s

theorem passConst_keeps (w : PmWord) (z : Dest) (v : Word) (c : Cond) (s : State) :
    AnswerKeeps s (passConst w z v c s) :=
  answerKeeps_needsExt <| answerKeeps_ifCond (settings_passConstStep z v) s

theorem macCond_keeps (f : MacFn) (z : Dest) (y : MacYop) (x : MacXop) (c : Cond) (s : State) :
    AnswerKeeps s (macCond f z y x c s) :=
  answerKeeps_ifCond (fun t => settings_macOp f z _ _ t) s

theorem macCondSqr_keeps (w : PmWord) (f : MacFn) (z : Dest) (x : MacXop) (c : Cond) (s : State) :
    AnswerKeeps s (macCondSqr w f z x c s) :=
  answerKeeps_needsExt <| answerKeeps_ifCond (fun t => settings_macOp f z _ _ t) s

theorem shiftCond_keeps (f : ShiftFn) (x : ShiftXop) (c : Cond) (s : State) :
    AnswerKeeps s (shiftCond f x c s) :=
  answerKeeps_ifCond (fun t => settings_shiftOp f _ t) s

theorem lshiftImm_keeps (ref : HiLo) (o : Bool) (x : ShiftXop) (e : BitVec 8) (s : State) :
    AnswerKeeps s (lshiftImm ref o x e s) :=
  answerKeeps_next (settings_writeSr o _ s)

theorem ashiftImm_keeps (ref : HiLo) (o : Bool) (x : ShiftXop) (e : BitVec 8) (s : State) :
    AnswerKeeps s (ashiftImm ref o x e s) :=
  answerKeeps_next (settings_writeSr o _ s)

theorem execCompMove_keeps (z : Dest) (op : Option AluMac) (d r : DReg) (s : State) :
    AnswerKeeps s (execCompMove z op d r s) := by
  cases op with
  | none => exact answerKeeps_ite (answerKeeps_next (settings_moveBeside (fun _ => rfl) d r s)) (answerKeeps_fault s _)
  | some op =>
    exact answerKeeps_unlessClash _ _ (keeps_ok (settings_moveBeside (settings_computeOp z op) d r)) s

/-- Every instruction but DO UNTIL leaves the settings alone. -/
theorem exec_keeps (i : Instr) (s : State) (hi : ∀ a t, i ≠ .doUntil a t) : AnswerKeeps s (exec i s) := by
  cases i with
  | doUntil a t => exact absurd rfl (hi a t)
  | aluPassY | aluIncY | aluAddC | aluAdd | aluNotY | aluNegY | aluSubXYBorrow | aluSubXY | aluDecY | aluSubYX
  | aluSubYXBorrow | aluNotX | aluAnd | aluOr | aluXor | aluAbs => exact aluCond_keeps _ _ _ _ _ s
  | aluAddK | aluAddKC | aluSubXK | aluSubXKBorrow | aluSubKX | aluSubKXBorrow | aluTstbit | aluClrbit | aluSetbit
  | aluOrNotBit | aluTglbit | aluXorNotBit | aluNotK | aluNegK | aluNotXK | aluAbsK =>
    exact aluCondConst_keeps _ _ _ _ _ _ s
  | aluPassK | aluPassKInc | aluPassKDec => exact passConst_keeps _ _ _ _ s
  | divs | divq => exact answerKeeps_next (settings_writeDiv _ s)
  | noneAlu => exact answerKeeps_ite (answerKeeps_next (settings_aluStatusStep _ _ _ s)) (answerKeeps_fault s _)
  | macMulRnd | macMulSs | macMulSu | macMulUs | macMulUu | macAddRnd | macAddSs | macAddSu | macAddUs | macAddUu
  | macSubRnd | macSubSs | macSubSu | macSubUs | macSubUu => exact macCond_keeps _ _ _ _ _ s
  | macSqrMulRnd | macSqrMulSs | macSqrMulUu | macSqrAddRnd | macSqrAddSs | macSqrAddUu | macSqrSubRnd | macSqrSubSs
  | macSqrSubUu => exact macCondSqr_keeps _ _ _ _ _ s
  | satMr => exact answerKeeps_ite (answerKeeps_next (settings_setBank _ s)) (answerKeeps_next rfl)
  | lshiftHi | lshiftHiOr | lshiftLo | lshiftLoOr | ashiftHi | ashiftHiOr | ashiftLo | ashiftLoOr | normHi | normHiOr
  | normLo | normLoOr | expHi | expHix | expLo | expadj => exact shiftCond_keeps _ _ _ s
  | lshiftImmHi | lshiftImmHiOr | lshiftImmLo | lshiftImmLoOr => exact lshiftImm_keeps _ _ _ _ s
  | ashiftImmHi | ashiftImmHiOr | ashiftImmLo | ashiftImmLoOr => exact ashiftImm_keeps _ _ _ _ s
  | moveFromTop d => exact answerKeeps_ite (answerKeeps_answer (keeps_topToReg _ d) s) (answerKeeps_fault s _)
  | moveToTop r => exact answerKeeps_ite (answerKeeps_answer (keeps_regToTop _ r) s) (answerKeeps_fault s _)
  | moveReg d r => exact answerKeeps_answer (keeps_regToReg _ d r) s
  | loadDreg v d => exact answerKeeps_next (settings_writeDreg d v s)
  | loadReg v d => exact answerKeeps_ite (answerKeeps_fault s _) (answerKeeps_answer (keeps_writeReg _ d _) s)
  | readDm a d => exact answerKeeps_answer (keeps_dmToReg _ a d) s
  | writeDm a r => exact answerKeeps_answer (keeps_regToDm _ a r) s
  | readDmInd g d j m => exact answerKeeps_answer (keeps_loadDmInd (fun _ => rfl) d _ _) s
  | writeDmInd | writeDmImm => exact answerKeeps_answer (keeps_storeDmInd (fun _ => rfl) _ _ _) s
  | readPmInd d j m => exact answerKeeps_answer (keeps_loadPmInd (fun _ => rfl) d _ _) s
  | writePmInd => exact answerKeeps_answer (keeps_storePmInd (fun _ => rfl) _ _ _) s
  | readIo a d => exact answerKeeps_ite (answerKeeps_answer (keeps_ioToDreg a d) s) (answerKeeps_fault s _)
  | writeIo a r => exact answerKeeps_ite (answerKeeps_answer (keeps_writeIoSpace a _) s) (answerKeeps_fault s _)
  | jump a c => exact answerKeeps_ifCond (settings_transferTo a) s
  | call a c => exact answerKeeps_answer (keeps_ifCond (keeps_callTo a)) s
  | jumpInd j c => exact answerKeeps_ifCond (fun _ => settings_transferTo _ _) s
  | callInd j c => exact answerKeeps_answer (keeps_ifCond fun t => keeps_callTo (indirectTarget j t) t) s
  | jumpFlag a fic => exact answerKeeps_ite (answerKeeps_next rfl) (answerKeeps_next rfl)
  | callFlag a fic => exact answerKeeps_ite (answerKeeps_answer (keeps_callTo a) s) (answerKeeps_next rfl)
  | flagOut fl2 fl1 fl0 fo c =>
    exact answerKeeps_ite (answerKeeps_fault s _) (answerKeeps_ifCond (settings_drivePins fl2 fl1 fl0 fo) s)
  | rts c => exact answerKeeps_answer (keeps_ifCond keeps_returnFromSub) s
  | rti c => exact answerKeeps_answer (keeps_ifCond keeps_returnFromInterrupt) s
  | idle | idleN => exact answerKeeps_next (settings_enterIdle s)
  | stackControl pp lp cp sp => exact answerKeeps_answer (keeps_controlStacks pp lp cp sp) s
  | enaInts | disInts => exact answerKeeps_ite (answerKeeps_next rfl) (answerKeeps_fault s _)
  | modeControl => exact answerKeeps_next (settings_setMstat _ s)
  | modify => exact answerKeeps_next (settings_postModify _ _ s)
  | nop => exact answerKeeps_next rfl
  | compReadDm g z op d j m =>
    exact answerKeeps_unlessClash _ _ (keeps_loadDmInd (settings_computeOp z op) d _ _) s
  | compReadPm z op d j m =>
    exact answerKeeps_unlessClash _ _ (keeps_loadPmInd (settings_computeOp z op) d _ _) s
  | shiftReadDm g f x d j m =>
    exact answerKeeps_unlessClash _ _ (keeps_loadDmInd (settings_computeShift f x) d _ _) s
  | shiftReadPm f x d j m =>
    exact answerKeeps_unlessClash _ _ (keeps_loadPmInd (settings_computeShift f x) d _ _) s
  | compMove z op d r => exact execCompMove_keeps z op d r s
  | shiftMove f x d r =>
    exact answerKeeps_unlessClash _ _ (keeps_ok (settings_moveBeside (settings_computeShift f x) d r)) s
  | compWriteDm g z op r j m => exact answerKeeps_answer (keeps_storeDmInd (settings_computeOp z op) _ _ _) s
  | compWritePm z op r j m => exact answerKeeps_answer (keeps_storePmInd (settings_computeOp z op) _ _ _) s
  | shiftWriteDm g f x r j m => exact answerKeeps_answer (keeps_storeDmInd (settings_computeShift f x) _ _ _) s
  | shiftWritePm f x r j m => exact answerKeeps_answer (keeps_storePmInd (settings_computeShift f x) _ _ _) s
  | dualRead pd dd pi pm di dm => exact answerKeeps_answer (keeps_dualLoad (fun _ => rfl) pd dd _ _ _ _) s
  | compDualRead pd dd op pi pm di dm =>
    exact answerKeeps_answer (keeps_dualLoad (settings_computeOp .result op) pd dd _ _ _ _) s
  | unused => exact answerKeeps_fault s _

/-- What holds between the states before and after an instruction or the sequencer's part of a step. -/
structure KeepsSettings (s t : State) : Prop where
  cfg : t.cfg = s.cfg
  steps : t.steps = s.steps
  pcOvf : s.seq.pcOvf = true → t.seq.pcOvf = true
  loopOvf : s.seq.loopOvf = true → t.seq.loopOvf = true
  cntrOvf : s.seq.cntrOvf = true → t.seq.cntrOvf = true
  stsOvf : s.seq.stsOvf = true → t.seq.stsOvf = true

theorem keepsSettings_of_eq {s t : State} (h : settings t = settings s) : KeepsSettings s t where
  cfg := congrArg Settings.cfg h
  steps := congrArg Settings.steps h
  pcOvf := (congrArg Settings.pcOvf h).trans
  loopOvf := (congrArg Settings.loopOvf h).trans
  cntrOvf := (congrArg Settings.cntrOvf h).trans
  stsOvf := (congrArg Settings.stsOvf h).trans

theorem KeepsSettings.trans {s t u : State} (h : KeepsSettings s t) (h' : KeepsSettings t u) : KeepsSettings s u where
  cfg := h'.cfg.trans h.cfg
  steps := h'.steps.trans h.steps
  pcOvf := h'.pcOvf ∘ h.pcOvf
  loopOvf := h'.loopOvf ∘ h.loopOvf
  cntrOvf := h'.cntrOvf ∘ h.cntrOvf
  stsOvf := h'.stsOvf ∘ h.stsOvf

/-- DO UNTIL enters the loop, or on a full stack sets overflow bits; it clears none (R350, R59). -/
theorem enterLoop_keepsSettings {a : Addr} {term : Term} {s t : State} (h : enterLoop a term s = .ok t) :
    KeepsSettings s t := by
  obtain ⟨_, hguard, _⟩ := result_bind_eq_ok.mp h
  have hp := guardPcStack_eq_ok.mp hguard
  by_cases hfull : loopStackDepth ≤ s.seq.loopStack.length ∨ pcStackDepth ≤ s.seq.pcStack.length
  · rw [enterLoop_full hp hfull] at h
    cases h
    exact ⟨rfl, rfl, fun hset => by simp [hset], fun hset => by simp [hset], id, id⟩
  · obtain ⟨hl, hpc⟩ := not_or.mp hfull
    rw [enterLoop_room hp (Nat.not_le.mp hl) (Nat.not_le.mp hpc)] at h
    cases hshare : sharesLoopEnd a s <;> rw [hshare] at h <;> cases h
    exact keepsSettings_of_eq (settings_pushLoop a term s)

/-- No instruction clears an overflow bit or changes the configuration. -/
theorem exec_keepsSettings {i : Instr} {s t : State} (h : exec i s = .next t) : KeepsSettings s t := by
  by_cases hi : ∃ a term, i = .doUntil a term
  · obtain ⟨a, term, rfl⟩ := hi
    exact enterLoop_keepsSettings (answer_eq_next.mp h)
  · exact keepsSettings_of_eq (exec_keeps i s (fun a term he => hi ⟨a, term, he⟩) t h)

/-! The sequencer (R335). -/

theorem keeps_dispatchInterrupt : Keeps dispatchInterrupt := by
  intro s t h
  unfold dispatchInterrupt at h
  split at h
  · cases h; exact settings_sampleRequests s
  · next k src _ =>
    unfold takeUnlessPopPending at h
    split at h
    · split at h
      · cases h
      · cases h; exact settings_sampleRequests s
    · exact keeps_takeInterrupt k src (sampleRequests s) t h

theorem keepsBy_fetch : KeepsBy fetch := by
  intro s w t h
  unfold fetch at h
  split at h
  · cases h
  · exact keepsBy_readPm _ s w t h

theorem keeps_loopExit : Keeps loopExit := by
  intro s t h
  obtain ⟨⟨e, u⟩, hu, h⟩ := result_bind_eq_ok.mp h
  obtain ⟨⟨a, u'⟩, hu', h⟩ := result_bind_eq_ok.mp h
  have hpops : settings u' = settings s := (keepsBy_popPc u a u' hu').trans (keepsBy_popLoop s e u hu)
  by_cases hce : e.term = .ce <;> simp only [hce, if_true, if_false] at h <;> cases h
  · rw [settings_cntrAfterLoop, hpops]
  · exact hpops

theorem keeps_advance (s : State) : Keeps (advance s) := by
  intro t u h
  unfold advance at h
  split at h
  · cases h; rfl
  · split at h
    · cases h; rfl
    · split at h
      · exact keeps_seq keeps_loopExit (keeps_ok (settings_setPc _)) t u h
      · exact keeps_after (fun a => keeps_ok (settings_setPc a)) t u h

theorem keeps_delayedPop (s : State) : Keeps (delayedPop s) := by
  intro t u h
  unfold delayedPop at h
  split at h
  · obtain ⟨⟨a, v⟩, hv, h⟩ := result_bind_eq_ok.mp h
    cases h
    exact keepsBy_popPc t a v hv
  · cases h; rfl

/-- The sequencer's part of a step ends by counting it. -/
theorem completeInstr_settings {s t u : State} (h : completeInstr s t = .ok u) :
    ∃ v, u = tick v ∧ settings v = settings t := by
  obtain ⟨v, hv, h⟩ := result_bind_eq_ok.mp h
  obtain ⟨v', hv', h⟩ := result_bind_eq_ok.mp h
  cases h
  exact ⟨v', rfl, (keeps_delayedPop s v v' hv').trans (keeps_advance s t v hv)⟩

/-- Running an instruction keeps the settings up to the tick that ends the step. -/
theorem runInstr_keepsSettings {i : Instr} {s t : State} (h : runInstr i s = .next t) :
    ∃ v, t = tick v ∧ KeepsSettings s v := by
  unfold runInstr at h
  split at h
  · cases h
  split at h
  · cases h
  cases hexec : exec i (beginInstr s) with
  | fault f => simp [hexec] at h
  | refused r => simp [hexec] at h
  | next u =>
    rw [hexec] at h
    obtain ⟨v, rfl, hv⟩ := completeInstr_settings (answer_eq_next.mp h)
    exact ⟨v, rfl, ((keepsSettings_of_eq (settings_beginInstr s)).trans (exec_keepsSettings hexec)).trans
      (keepsSettings_of_eq hv)⟩

theorem runNext_keepsSettings {s t : State} (h : runNext s = .next t) : ∃ v, t = tick v ∧ KeepsSettings s v := by
  unfold runNext at h
  split at h
  · cases h
  · next w u hfetch =>
    split at h
    · cases h
    · obtain ⟨v, hv, hkeeps⟩ := runInstr_keepsSettings h
      exact ⟨v, hv, (keepsSettings_of_eq (keepsBy_fetch s w u hfetch)).trans hkeeps⟩

/-- Every step is a tick of a state that kept the settings. -/
theorem step_keepsSettings {s t : State} (h : step s = .next t) : ∃ v, t = tick v ∧ KeepsSettings s v := by
  unfold step at h
  split at h
  · cases h
  · next u hdispatch =>
    have hu : KeepsSettings s u := keepsSettings_of_eq (keeps_dispatchInterrupt s u hdispatch)
    split at h
    · cases h
      exact ⟨u, rfl, hu⟩
    · obtain ⟨v, hv, hkeeps⟩ := runNext_keepsSettings h
      exact ⟨v, hv, hu.trans hkeeps⟩

/-- Settles O58: the step keeps the settings up to its tick, which counts it. -/
theorem stepKeepsSettings : Obligations.StepKeepsSettings := by
  intro s t h
  obtain ⟨v, rfl, hv⟩ := step_keepsSettings h
  exact ⟨hv.cfg, congrArg (· + 1) hv.steps, hv.pcOvf, hv.loopOvf, hv.cntrOvf, hv.stsOvf⟩

end Sys2Proof.Machine
end

section
/-! The shape of a state (O57): the parts that `wellShaped` speaks of, what it asks of them, and the updates that leave
them as they are. -/

namespace Sys2Proof.Machine

/-- The parts of the state that can make it ill shaped between two steps. -/
structure Shape where
  cfg : Config
  pm : Memory 24
  dm : Memory 16
  pcStack : List Addr
  loopStack : List LoopEntry
  cntrStack : List Addr
  stsStack : List StsEntry
  pcPopPending : Bool
  imask : Word
  icntl : Word
  irqPending : List Bool

/-- The shape of a state. -/
def shape (s : State) : Shape :=
  { cfg := s.cfg, pm := s.mem.pm, dm := s.mem.dm
    pcStack := s.seq.pcStack, loopStack := s.seq.loopStack, cntrStack := s.seq.cntrStack, stsStack := s.seq.stsStack
    pcPopPending := s.seq.pcPopPending
    imask := s.int.imask, icntl := s.int.icntl, irqPending := s.int.irqPending }

/-- What `wellShaped` asks beside the pending pop and the transfer, which hold only between steps. -/
structure Shape.Wf (c : Shape) : Prop where
  pm : c.pm.wf = true
  dm : c.dm.wf = true
  pcStack : c.pcStack.length ≤ pcStackDepth
  loopStack : c.loopStack.length ≤ loopStackDepth
  cntrStack : c.cntrStack.length ≤ c.cfg.cntrStackDepth
  stsStack : c.stsStack.length ≤ c.cfg.stsStackDepth
  saved : ∀ e ∈ c.stsStack, lowBits c.cfg.imaskBits e.imask = e.imask
  imask : lowBits c.cfg.imaskBits c.imask = c.imask
  icntl : icntlOf c.cfg.icntlBits c.icntl = c.icntl
  latches : c.irqPending.length = c.cfg.intTable.length

/-- A pending pop has an entry to pop (R481). -/
def PopReady (s : State) : Prop := s.seq.pcPopPending = true → s.seq.pcStack ≠ []

theorem hazardsWf_iff (s : State) : hazardsWf s.seq = true ↔ PopReady s ∧ s.seq.transfer = none := by
  unfold hazardsWf PopReady
  cases s.seq.pcPopPending <;> simp

/-- The parts of `wellShaped`. -/
theorem wellShaped_iff (s : State) :
    wellShaped s = true ↔ (shape s).Wf ∧ PopReady s ∧ s.seq.transfer = none := by
  simp only [wellShaped, stacksWf, masksWf, hazardsWf_iff, Bool.and_eq_true, decide_eq_true_eq, beq_iff_eq,
    List.all_eq_true]
  constructor
  · rintro ⟨hpm, hdm, ⟨hpc, hloop, hcntr, hsts, hsaved⟩, ⟨himask, hicntl⟩, hlatches, hhazards⟩
    exact ⟨⟨hpm, hdm, hpc, hloop, hcntr, hsts, hsaved, himask, hicntl, hlatches⟩, hhazards⟩
  · rintro ⟨⟨hpm, hdm, hpc, hloop, hcntr, hsts, hsaved, himask, hicntl, hlatches⟩, hhazards⟩
    exact ⟨hpm, hdm, ⟨hpc, hloop, hcntr, hsts, hsaved⟩, ⟨himask, hicntl⟩, hlatches, hhazards⟩

/-! The updates. -/

@[simp] theorem shape_setBank (b : Bank) (s : State) : shape (setBank b s) = shape s := by simp [shape]
@[simp] theorem shape_setAstat (v : BitVec 8) (s : State) : shape (setAstat v s) = shape s := rfl
@[simp] theorem shape_setMstat (v : BitVec 7) (s : State) : shape (setMstat v s) = shape s := rfl
@[simp] theorem shape_setPx (v : BitVec 8) (s : State) : shape (setPx v s) = shape s := rfl
@[simp] theorem shape_countDraw (s : State) : shape (countDraw s) = shape s := rfl
@[simp] theorem shape_setPc (a : Addr) (s : State) : shape (setPc a s) = shape s := rfl
@[simp] theorem shape_transferTo (a : Addr) (s : State) : shape (transferTo a s) = shape s := rfl
@[simp] theorem shape_setInts (b : Bool) (s : State) : shape (setInts b s) = shape s := rfl
@[simp] theorem shape_enterIdle (s : State) : shape (enterIdle s) = shape s := rfl

/-! The operations that always succeed. -/

@[simp] theorem shape_afterCond (c : Cond) (s : State) : shape (afterCond c s) = shape s := by
  unfold afterCond; split <;> rfl
@[simp] theorem shape_afterTerm (t : Term) (s : State) : shape (afterTerm t s) = shape s := by
  unfold afterTerm; split <;> rfl
@[simp] theorem shape_postModify (a b : DagIdx) (s : State) : shape (postModify a b s) = shape s := by
  rw [postModify_eq]; split <;> rfl
@[simp] theorem shape_writeDreg (d : DReg) (v : Word) (s : State) : shape (writeDreg d v s) = shape s := by
  simp [writeDreg]
@[simp] theorem shape_writeAlu (z : Dest) (o : AluOut) (s : State) : shape (writeAlu z o s) = shape s := by
  cases z with
  | feedback => simp [writeAlu]
  | result => simp only [writeAlu]; split <;> simp
@[simp] theorem shape_aluStep (f : AluFn) (z : Dest) (x y : Word) (s : State) :
    shape (aluStep f z x y s) = shape s := by
  simp [aluStep]
@[simp] theorem shape_passConstStep (z : Dest) (v : Word) (s : State) : shape (passConstStep z v s) = shape s := by
  cases z <;> simp [passConstStep]
@[simp] theorem shape_writeDiv (o : DivOut) (s : State) : shape (writeDiv o s) = shape s := by simp [writeDiv]
@[simp] theorem shape_aluStatusStep (f : AluFn) (x y : Word) (s : State) :
    shape (aluStatusStep f x y s) = shape s := by
  simp [aluStatusStep]
@[simp] theorem shape_macOp (f : MacFn) (z : Dest) (x y : Word) (s : State) : shape (macOp f z x y s) = shape s := by
  cases z <;> simp [macOp, writeMac]
@[simp] theorem shape_writeSr (o : Bool) (v : BitVec 32) (s : State) : shape (writeSr o v s) = shape s := by
  simp [writeSr]
@[simp] theorem shape_expHi (x : Word) (s : State) : shape (expHi x s) = shape s := by simp [expHi, writeExp]
@[simp] theorem shape_expHix (x : Word) (s : State) : shape (expHix x s) = shape s := by
  unfold expHix; split <;> simp [writeExp]
@[simp] theorem shape_expAdj (x : Word) (s : State) : shape (expAdj x s) = shape s := by
  unfold expAdj; split <;> simp
@[simp] theorem shape_shiftOp (f : ShiftFn) (x : Word) (s : State) : shape (shiftOp f x s) = shape s := by
  cases f <;> simp [shiftOp, expLo]
@[simp] theorem shape_computeOp (z : Dest) (op : AluMac) (s : State) : shape (computeOp z op s) = shape s := by
  cases op <;> simp [computeOp]
@[simp] theorem shape_computeShift (f : ShiftFn) (x : ShiftXop) (s : State) :
    shape (computeShift f x s) = shape s := by
  simp [computeShift]
@[simp] theorem shape_drivePins (fl2 fl1 fl0 fo : PinOp) (s : State) :
    shape (drivePins fl2 fl1 fl0 fo s) = shape s := by
  rw [drivePins_eq]; rfl
@[simp] theorem shape_beginInstr (s : State) : shape (beginInstr s) = shape s := by
  unfold beginInstr
  cases atLoopEnd s with
  | none => rfl
  | some e => exact shape_afterTerm e.term s

/-! Words that fit a width (R39, R441). -/

/-- A word fits a width when no bit outside it is set. -/
theorem lowBits_eq_self_iff {n : Nat} {v : Word} :
    lowBits n v = v ↔ ∀ k < 16, v.getLsbD k = true → k < n := by
  constructor
  · intro h k hk hv
    rw [← h, lowBits_getLsbD n k v hk, Bool.and_eq_true, decide_eq_true_eq] at hv
    exact hv.1
  · intro h
    refine BitVec.eq_of_getLsbD_eq fun k hk => ?_
    rw [lowBits_getLsbD n k v hk]
    cases hv : v.getLsbD k with
    | false => simp
    | true => simp [h k hk hv]

@[simp] theorem lowBits_lowBits (n : Nat) (v : Word) : lowBits n (lowBits n v) = lowBits n v := by
  refine lowBits_eq_self_iff.mpr fun k hk hv => ?_
  rw [lowBits_getLsbD n k v hk, Bool.and_eq_true, decide_eq_true_eq] at hv
  exact hv.1

@[simp] theorem icntlOf_icntlOf (n : Nat) (v : Word) : icntlOf n (icntlOf n v) = icntlOf n v := by
  refine BitVec.eq_of_getLsbD_eq fun k hk => ?_
  simp only [icntlOf, BitVec.getLsbD_and, lowBits_getLsbD _ k _ hk]
  cases decide (k < n) <;> cases v.getLsbD k <;> simp

/-- The mask an entry leaves fits where the old one does: a configured one is cut, and nesting only clears bits. -/
theorem lowBits_entryMask {cfg : Config} {imask : Word} (k : Nat) (icntl : Word)
    (h : lowBits cfg.imaskBits imask = imask) :
    lowBits cfg.imaskBits (entryMask cfg k imask icntl) = entryMask cfg k imask icntl := by
  cases hrule : cfg.entryMask[k]? with
  | some rule => rw [entryMask_some hrule, lowBits_lowBits]
  | none =>
    rw [entryMask_none hrule]
    refine lowBits_eq_self_iff.mpr fun b hb hset => lowBits_eq_self_iff.mp h b hb ?_
    rw [nestingMask_getLsbD _ _ _ _ _ hb, Bool.and_eq_true, Bool.and_eq_true] at hset
    exact hset.1.2

end Sys2Proof.Machine
end

section
/-! The operations that can stop: where they answer a state, they have kept its shape well formed and any pop pending.
What each can do is said by its `_eq_ok` lemma. -/

namespace Sys2Proof.Machine

/-- What holds between the states before and after every shared operation but the delayed pop and its mark. -/
structure KeepsShape (s t : State) : Prop where
  pending : t.seq.pcPopPending = s.seq.pcPopPending
  wf : (shape s).Wf → (shape t).Wf

theorem keepsShape_of_eq {s t : State} (h : shape t = shape s) : KeepsShape s t where
  pending := congrArg Shape.pcPopPending h
  wf hs := h ▸ hs

theorem KeepsShape.trans {s t u : State} (h : KeepsShape s t) (h' : KeepsShape t u) : KeepsShape s u where
  pending := h'.pending.trans h.pending
  wf := h'.wf ∘ h.wf

/-- Where `op` answers a state, it has kept the shape well formed. -/
def Shapely (op : State → Result State) : Prop := ∀ s t, op s = .ok t → KeepsShape s t

/-- Where `op` answers a value, it has left the shape as it was. -/
def ReadsShape {α : Type} (op : State → Result (α × State)) : Prop :=
  ∀ s v t, op s = .ok (v, t) → shape t = shape s

theorem shapely_ok {f : State → State} (h : ∀ s, shape (f s) = shape s) : Shapely fun s => .ok (f s) := by
  rintro s t ht
  cases ht
  exact keepsShape_of_eq (h s)

/-- An operation that goes on with the value and the state of a read. -/
theorem shapely_read {α : Type} {x : State → Result (α × State)} {f : α → State → Result State}
    (hx : ReadsShape x) (hf : ∀ v, Shapely (f v)) : Shapely fun s => x s >>= fun p => f p.1 p.2 := by
  intro s t ht
  obtain ⟨⟨v, u⟩, hu, ht⟩ := result_bind_eq_ok.mp ht
  exact (keepsShape_of_eq (hx s v u hu)).trans (hf v u t ht)

/-- An operation that goes on with the state of another. -/
theorem shapely_seq {x f : State → Result State} (hx : Shapely x) (hf : Shapely f) : Shapely fun s => x s >>= f := by
  intro s t ht
  obtain ⟨u, hu, ht⟩ := result_bind_eq_ok.mp ht
  exact (hx s u hu).trans (hf u t ht)

/-- An operation behind a test or a value that does not change the state. -/
theorem shapely_after {α : Type} {x : State → Result α} {f : α → State → Result State} (hf : ∀ v, Shapely (f v)) :
    Shapely fun s => x s >>= fun v => f v s := by
  intro s t ht
  obtain ⟨v, -, ht⟩ := result_bind_eq_ok.mp ht
  exact hf v s t ht

theorem shapely_ifCond {c : Cond} {op : State → Result State} (h : Shapely op) : Shapely (ifCond c op) := by
  intro s t ht
  obtain ⟨-, ht⟩ | ⟨-, rfl⟩ := ifCond_eq_ok.mp ht
  · exact (keepsShape_of_eq (shape_afterCond c s)).trans (h _ t ht)
  · exact keepsShape_of_eq (shape_afterCond c s)

theorem shapely_optionally {b : Bool} {op : State → Result State} (h : Shapely op) : Shapely (optionally b op) := by
  cases b with
  | false => exact shapely_ok fun _ => rfl
  | true => exact h

/-! Memory and I/O. -/

theorem readsShape_readDm (a : Addr) : ReadsShape (readDm a) := by
  intro s v t h
  obtain ⟨-, -, rfl⟩ | ⟨-, -, rfl⟩ := readDm_eq_ok.mp h <;> rfl

theorem readsShape_readPm (a : Addr) : ReadsShape (readPm a) := by
  intro s v t h
  obtain ⟨-, -, rfl⟩ | ⟨-, -, rfl⟩ := readPm_eq_ok.mp h <;> rfl

theorem readsShape_readIoSpace (a : IoAddr) : ReadsShape (readIoSpace a) := by
  intro s v t h
  obtain ⟨-, -, rfl⟩ := readIoSpace_eq_ok.mp h
  rfl

theorem shapely_writeIoSpace (a : IoAddr) (v : Word) : Shapely (writeIoSpace a v) := by
  intro s t h
  obtain ⟨-, rfl⟩ := writeIoSpace_eq_ok.mp h
  exact keepsShape_of_eq rfl

/-- A write stays in canonical form, because its address is a 14-bit one (R80, R81). -/
theorem shapely_writeDm (a : Addr) (v : Word) : Shapely (writeDm a v) := by
  intro s t h
  obtain ⟨-, rfl⟩ | ⟨-, rfl⟩ := writeDm_eq_ok.mp h
  · exact ⟨rfl, fun hs => { hs with dm := Memory.wf_write _ a v hs.dm }⟩
  · exact keepsShape_of_eq rfl

theorem shapely_writePm (a : Addr) (v : PmWord) : Shapely (writePm a v) := by
  intro s t h
  obtain ⟨-, rfl⟩ | ⟨-, rfl⟩ := writePm_eq_ok.mp h
  · exact ⟨rfl, fun hs => { hs with pm := Memory.wf_write _ a v hs.pm }⟩
  · exact keepsShape_of_eq rfl

/-! The stacks: a push has room, and a pop leaves a shorter stack. -/

/-- Without its top a stack still respects its depth. -/
theorem length_le_of_eq_cons {α : Type} {l rest : List α} {a : α} {n : Nat} (hl : l = a :: rest)
    (h : l.length ≤ n) : rest.length ≤ n := by
  subst hl
  exact (Nat.le_succ _).trans h

theorem shapely_pushPc (a : Addr) : Shapely (pushPc a) := by
  intro s t h
  obtain ⟨hroom, rfl⟩ := pushPc_eq_ok.mp h
  exact ⟨rfl, fun hs => { hs with pcStack := hroom }⟩

theorem popPc_keepsShape {a : Addr} {s t : State} (h : popPc s = .ok (a, t)) : KeepsShape s t := by
  obtain ⟨rest, hq, rfl⟩ := popPc_eq_ok.mp h
  exact ⟨rfl, fun hs => { hs with pcStack := length_le_of_eq_cons hq hs.pcStack }⟩

theorem popLoop_keepsShape {e : LoopEntry} {s t : State} (h : popLoop s = .ok (e, t)) : KeepsShape s t := by
  obtain ⟨rest, hq, rfl⟩ := popLoop_eq_ok.mp h
  exact ⟨rfl, fun hs => { hs with loopStack := length_le_of_eq_cons hq hs.loopStack }⟩

theorem shapely_popCntr : Shapely popCntr := by
  intro s t h
  obtain ⟨v, rest, hq, rfl⟩ := popCntr_eq_ok.mp h
  exact ⟨rfl, fun hs => { hs with cntrStack := length_le_of_eq_cons hq hs.cntrStack }⟩

theorem shapely_loadCntr (v : Addr) : Shapely (loadCntr v) := by
  intro s t h
  obtain ⟨-, hroom, rfl⟩ | ⟨-, rfl⟩ := loadCntr_eq_ok.mp h
  · exact ⟨rfl, fun hs => { hs with cntrStack := hroom }⟩
  · exact keepsShape_of_eq rfl

/-- A pushed IMASK fits, because IMASK does. -/
theorem shapely_pushSts : Shapely pushSts := by
  intro s t h
  obtain ⟨hroom, rfl⟩ := pushSts_eq_ok.mp h
  exact ⟨rfl, fun hs => { hs with stsStack := hroom, saved := List.forall_mem_cons.mpr ⟨hs.imask, hs.saved⟩ }⟩

/-- A restored IMASK fits, because every saved one does. -/
theorem shapely_popSts : Shapely popSts := by
  intro s t h
  obtain ⟨e, rest, hq, rfl⟩ := popSts_eq_ok.mp h
  refine ⟨rfl, fun hs => ?_⟩
  have hsaved : ∀ x ∈ e :: rest, lowBits s.cfg.imaskBits x.imask = x.imask := hq ▸ hs.saved
  obtain ⟨hfits, hrest⟩ := List.forall_mem_cons.mp hsaved
  exact { hs with stsStack := length_le_of_eq_cons hq hs.stsStack, saved := hrest, imask := hfits }

theorem shapely_dropPc : Shapely dropPc := by
  intro s t h
  obtain ⟨-, -, h⟩ := result_bind_eq_ok.mp h
  obtain ⟨⟨a, u⟩, hu, h⟩ := result_bind_eq_ok.mp h
  cases h
  exact popPc_keepsShape hu

theorem shapely_dropLoop : Shapely dropLoop := by
  intro s t h
  obtain ⟨⟨e, u⟩, hu, h⟩ := result_bind_eq_ok.mp h
  cases h
  exact popLoop_keepsShape hu

theorem shapely_stsAction (sp : StsOp) : Shapely (stsAction sp) := by
  cases sp with
  | keep | keepAlt => exact shapely_ok fun _ => rfl
  | push => exact shapely_pushSts
  | pop => exact shapely_popSts

theorem shapely_controlStacks (pp lp cp : Bool) (sp : StsOp) : Shapely (controlStacks pp lp cp sp) :=
  shapely_seq (shapely_stsAction sp) <| shapely_seq (shapely_optionally shapely_popCntr) <|
    shapely_seq (shapely_optionally shapely_dropPc) (shapely_optionally shapely_dropLoop)

/-! Calls, returns, DO UNTIL and interrupt entry. -/

theorem shapely_callTo (a : Addr) : Shapely (callTo a) :=
  shapely_after fun _ s => shapely_seq (shapely_pushPc (returnAddr s)) (shapely_ok (shape_transferTo a)) s

theorem shapely_returnFromSub : Shapely returnFromSub := by
  intro s t h
  obtain ⟨-, a, rest, hq, rfl⟩ := returnFromSub_eq_ok.mp h
  exact ⟨rfl, fun hs => { hs with pcStack := length_le_of_eq_cons hq hs.pcStack }⟩

theorem shapely_returnFromInterrupt : Shapely returnFromInterrupt := by
  intro s t h
  obtain ⟨-, -, h⟩ := result_bind_eq_ok.mp h
  obtain ⟨⟨a, u⟩, hu, h⟩ := result_bind_eq_ok.mp h
  obtain ⟨v, hv, h⟩ := result_bind_eq_ok.mp h
  cases h
  exact ((popPc_keepsShape hu).trans (shapely_popSts u v hv)).trans (keepsShape_of_eq (shape_transferTo a v))

/-- DO UNTIL pushes where both stacks have room; on a full one it touches only the overflow bits (R350). -/
theorem shapely_enterLoop (a : Addr) (term : Term) : Shapely (enterLoop a term) := by
  intro s t h
  obtain ⟨_, hguard, _⟩ := result_bind_eq_ok.mp h
  have hp := guardPcStack_eq_ok.mp hguard
  by_cases hfull : loopStackDepth ≤ s.seq.loopStack.length ∨ pcStackDepth ≤ s.seq.pcStack.length
  · rw [enterLoop_full hp hfull] at h
    cases h
    exact keepsShape_of_eq rfl
  · obtain ⟨hl, hpc⟩ := not_or.mp hfull
    rw [enterLoop_room hp (Nat.not_le.mp hl) (Nat.not_le.mp hpc)] at h
    cases hshare : sharesLoopEnd a s <;> rw [hshare] at h <;> cases h
    exact ⟨rfl, fun hs => { hs with loopStack := Nat.not_le.mp hl, pcStack := Nat.not_le.mp hpc }⟩

theorem shapely_takeInterrupt (k : Nat) (src : IntSource) : Shapely (takeInterrupt k src) := by
  intro s t h
  obtain ⟨hpc, hsts, rfl⟩ := takeInterrupt_eq_ok.mp h
  refine ⟨rfl, fun hs => { hs with
    pcStack := hpc
    stsStack := hsts
    saved := List.forall_mem_cons.mpr ⟨hs.imask, hs.saved⟩
    imask := lowBits_entryMask k s.int.icntl hs.imask
    latches := ?_ }⟩
  exact (latchesAfterEntry_length _ k src _).trans hs.latches

/-! Registers. -/

theorem readsShape_readReg (w : PmWord) (r : Reg) : ReadsShape (readReg w r) := by
  intro s v t h
  cases r with
  | ifc | owrcntr => simp [readReg] at h
  | _ => cases h; rfl

/-- A write of IMASK, ICNTL or IFC is cut to the register's width; a write of CNTR may push; no other touches the
shape. -/
theorem shapely_writeReg (w : PmWord) (r : Reg) (v : Word) : Shapely (writeReg w r v) := by
  intro s t h
  cases r with
  | sstat => simp [writeReg] at h
  | cntr => exact shapely_loadCntr _ s t h
  | dreg d => cases h; exact keepsShape_of_eq (shape_writeDreg d v s)
  | sb => cases h; exact keepsShape_of_eq (shape_setBank _ s)
  | imask => cases h; exact ⟨rfl, fun hs => { hs with imask := lowBits_lowBits _ v }⟩
  | icntl => cases h; exact ⟨rfl, fun hs => { hs with icntl := icntlOf_icntlOf _ v }⟩
  | ifc => cases h; exact ⟨rfl, fun hs => { hs with latches := ifcLatches_length _ _ _ }⟩
  | _ => cases h; exact keepsShape_of_eq rfl

/-- No register write touches the PC stack. -/
theorem writeReg_pcStack {w : PmWord} {r : Reg} {v : Word} {s t : State} (h : writeReg w r v s = .ok t) :
    t.seq.pcStack = s.seq.pcStack := by
  cases r with
  | sstat => simp [writeReg] at h
  | cntr => obtain ⟨-, -, rfl⟩ | ⟨-, rfl⟩ := loadCntr_eq_ok.mp h <;> rfl
  | dreg d => cases h; exact congrArg Shape.pcStack (shape_writeDreg d v s)
  | sb => cases h; exact congrArg Shape.pcStack (shape_setBank _ s)
  | _ => cases h; rfl

/-! The moves, alone and beside a computation. -/

section
variable {compute : State → State} (hc : ∀ s, shape (compute s) = shape s)
include hc

theorem shapely_loadDmInd (d : DReg) (a b : DagIdx) : Shapely (loadDmInd compute d a b) := by
  intro s t h
  obtain ⟨⟨v, u⟩, hu, h⟩ := result_bind_eq_ok.mp h
  cases h
  refine keepsShape_of_eq ?_
  rw [shape_postModify, shape_writeDreg, hc, readsShape_readDm _ s v u hu]

theorem shapely_loadPmInd (d : DReg) (a b : DagIdx) : Shapely (loadPmInd compute d a b) := by
  intro s t h
  obtain ⟨⟨p, u⟩, hu, h⟩ := result_bind_eq_ok.mp h
  cases h
  refine keepsShape_of_eq ?_
  rw [shape_postModify, shape_setPx, shape_writeDreg, hc, readsShape_readPm _ s p u hu]

theorem shapely_storeDmInd (v : Word) (a b : DagIdx) : Shapely (storeDmInd compute v a b) := fun s =>
  shapely_seq (shapely_writeDm (addrOut s a) v) (shapely_ok fun t => by simp [hc]) s

theorem shapely_storePmInd (v : Word) (a b : DagIdx) : Shapely (storePmInd compute v a b) := fun s =>
  shapely_seq (shapely_writePm (addrOut s a) (v ++ s.px)) (shapely_ok fun t => by simp [hc]) s

theorem shapely_dualLoad (pd : PmDest) (dd : DmDest) (ap bp ad bd : DagIdx) :
    Shapely (dualLoad compute pd dd ap bp ad bd) := by
  intro s t h
  obtain ⟨⟨p, u⟩, hu, h⟩ := result_bind_eq_ok.mp h
  obtain ⟨⟨v, u'⟩, hu', h⟩ := result_bind_eq_ok.mp h
  cases h
  exact keepsShape_of_eq (by simp [hc, readsShape_readDm _ u v u' hu', readsShape_readPm _ s p u hu])

theorem shape_moveBeside (d r : DReg) (s : State) : shape (moveBeside compute d r s) = shape s := by
  simp [moveBeside, hc]

end

theorem shapely_regToTop (w : PmWord) (r : Reg) : Shapely (regToTop w r) :=
  shapely_after fun _ => shapely_read (f := fun v t => pushPc (v.setWidth 14) t) (readsShape_readReg w r)
    fun v => shapely_pushPc (v.setWidth 14)

theorem shapely_regToReg (w : PmWord) (d r : Reg) : Shapely (regToReg w d r) :=
  shapely_read (f := fun v t => writeReg w d v t) (readsShape_readReg w r) fun v => shapely_writeReg w d v

theorem shapely_dmToReg (w : PmWord) (a : Addr) (d : Reg) : Shapely (dmToReg w a d) :=
  shapely_read (f := fun v t => writeReg w d v t) (readsShape_readDm a) fun v => shapely_writeReg w d v

theorem shapely_regToDm (w : PmWord) (a : Addr) (r : Reg) : Shapely (regToDm w a r) :=
  shapely_read (f := fun v t => writeDm a v t) (readsShape_readReg w r) fun v => shapely_writeDm a v

theorem shapely_ioToDreg (a : IoAddr) (d : DReg) : Shapely (ioToDreg a d) :=
  shapely_read (f := fun v t => .ok (writeDreg d v t)) (readsShape_readIoSpace a)
    fun v => shapely_ok (shape_writeDreg d v)

/-- `reg = TOPPCSTACK` marks a pop that can be made: no pop was pending, and the top it has read is still there. -/
theorem topToReg_marks {w : PmWord} {d : Reg} {s t : State} (h : topToReg w d s = .ok t) :
    s.seq.pcPopPending = false ∧ ((shape s).Wf → (shape t).Wf) ∧ t.seq.pcStack ≠ [] := by
  obtain ⟨_, hguard, h⟩ := result_bind_eq_ok.mp h
  obtain ⟨a, htop, h⟩ := result_bind_eq_ok.mp h
  obtain ⟨u, hu, h⟩ := result_bind_eq_ok.mp h
  cases h
  obtain ⟨rest, hq⟩ := topPc_eq_ok.mp htop
  have hstack : u.seq.pcStack = a :: rest := (writeReg_pcStack hu).trans hq
  refine ⟨guardPcStack_eq_ok.mp hguard, fun hs => { (shapely_writeReg _ _ _ s u hu).wf hs with }, ?_⟩
  rw [markPcPop_seq, hstack]
  exact List.cons_ne_nil a rest

end Sys2Proof.Machine
end

section
/-! The instructions and the step: every instruction but `reg = TOPPCSTACK` keeps the shape well formed and any pop
pending; the step then makes the pop that was pending, so that the only one left is one TOPPCSTACK has just marked. -/

namespace Sys2Proof.Machine

/-- Where `r` answers a next state, it has kept the shape of `s` well formed. -/
def AnswerShapely (s : State) (r : Answer) : Prop := ∀ t, r = .next t → KeepsShape s t

theorem answerShapely_next {s t : State} (h : shape t = shape s) : AnswerShapely s (.next t) := by
  rintro u hu
  cases hu
  exact keepsShape_of_eq h

theorem answerShapely_fault (s : State) (f : Fault) : AnswerShapely s (.fault f) := by
  rintro t ⟨⟩

theorem answerShapely_answer {op : State → Result State} (h : Shapely op) (s : State) :
    AnswerShapely s (answer (op s)) :=
  fun t ht => h s t (answer_eq_next.mp ht)

theorem answerShapely_ite {s : State} {p : Prop} [Decidable p] {r q : Answer} (hr : AnswerShapely s r)
    (hq : AnswerShapely s q) : AnswerShapely s (if p then r else q) := by
  split
  · exact hr
  · exact hq

/-- An instruction that only some members of the family have. -/
theorem answerShapely_if {s : State} {p : Prop} [Decidable p] {r : Answer} {f : Fault} (hr : AnswerShapely s r) :
    AnswerShapely s (if p then r else .fault f) :=
  answerShapely_ite hr (answerShapely_fault s f)

/-- A conditional operation that always succeeds. -/
theorem answerShapely_ifCond {c : Cond} {f : State → State} (h : ∀ s, shape (f s) = shape s) (s : State) :
    AnswerShapely s (answer (ifCond c (fun t => .ok (f t)) s)) :=
  answerShapely_answer (shapely_ifCond (shapely_ok h)) s

theorem answerShapely_unlessClash (w : PmWord) (clash : Bool) {op : State → Result State} (h : Shapely op)
    (s : State) : AnswerShapely s (answer (unlessClash w clash (op s))) :=
  fun t ht => h s t (unlessClash_eq_ok.mp (answer_eq_next.mp ht)).2

/-! The generic instructions. -/

theorem aluCond_shapely (f : AluFn) (z : Dest) (y : AluYop) (x : AluXop) (c : Cond) (s : State) :
    AnswerShapely s (aluCond f z y x c s) :=
  answerShapely_ifCond (fun t => shape_aluStep f z _ _ t) s

theorem aluCondConst_shapely (w : PmWord) (f : AluFn) (z : Dest) (k : Word) (x : AluXop) (c : Cond) (s : State) :
    AnswerShapely s (aluCondConst w f z k x c s) :=
  answerShapely_if <| answerShapely_ifCond (fun t => shape_aluStep f z _ _ t) s

theorem passConst_shapely (w : PmWord) (z : Dest) (v : Word) (c : Cond) (s : State) :
    AnswerShapely s (passConst w z v c s) :=
  answerShapely_if <| answerShapely_ifCond (shape_passConstStep z v) s

theorem macCond_shapely (f : MacFn) (z : Dest) (y : MacYop) (x : MacXop) (c : Cond) (s : State) :
    AnswerShapely s (macCond f z y x c s) :=
  answerShapely_ifCond (fun t => shape_macOp f z _ _ t) s

theorem macCondSqr_shapely (w : PmWord) (f : MacFn) (z : Dest) (x : MacXop) (c : Cond) (s : State) :
    AnswerShapely s (macCondSqr w f z x c s) :=
  answerShapely_if <| answerShapely_ifCond (fun t => shape_macOp f z _ _ t) s

theorem shiftCond_shapely (f : ShiftFn) (x : ShiftXop) (c : Cond) (s : State) :
    AnswerShapely s (shiftCond f x c s) :=
  answerShapely_ifCond (fun t => shape_shiftOp f _ t) s

theorem execCompMove_shapely (z : Dest) (op : Option AluMac) (d r : DReg) (s : State) :
    AnswerShapely s (execCompMove z op d r s) := by
  cases op with
  | none => exact answerShapely_if (answerShapely_next (shape_moveBeside (fun _ => rfl) d r s))
  | some op => exact answerShapely_unlessClash _ _ (shapely_ok (shape_moveBeside (shape_computeOp z op) d r)) s

/-- Every instruction but `reg = TOPPCSTACK` keeps the shape well formed and any pop pending. -/
theorem exec_shapely (i : Instr) (s : State) (hi : ∀ d, i ≠ .moveFromTop d) : AnswerShapely s (exec i s) := by
  cases i with
  | moveFromTop d => exact absurd rfl (hi d)
  | aluPassY | aluIncY | aluAddC | aluAdd | aluNotY | aluNegY | aluSubXYBorrow | aluSubXY | aluDecY | aluSubYX
  | aluSubYXBorrow | aluNotX | aluAnd | aluOr | aluXor | aluAbs => exact aluCond_shapely _ _ _ _ _ s
  | aluAddK | aluAddKC | aluSubXK | aluSubXKBorrow | aluSubKX | aluSubKXBorrow | aluTstbit | aluClrbit | aluSetbit
  | aluOrNotBit | aluTglbit | aluXorNotBit | aluNotK | aluNegK | aluNotXK | aluAbsK =>
    exact aluCondConst_shapely _ _ _ _ _ _ s
  | aluPassK | aluPassKInc | aluPassKDec => exact passConst_shapely _ _ _ _ s
  | divs | divq => exact answerShapely_next (shape_writeDiv _ s)
  | noneAlu => exact answerShapely_if (answerShapely_next (shape_aluStatusStep _ _ _ s))
  | macMulRnd | macMulSs | macMulSu | macMulUs | macMulUu | macAddRnd | macAddSs | macAddSu | macAddUs | macAddUu
  | macSubRnd | macSubSs | macSubSu | macSubUs | macSubUu => exact macCond_shapely _ _ _ _ _ s
  | macSqrMulRnd | macSqrMulSs | macSqrMulUu | macSqrAddRnd | macSqrAddSs | macSqrAddUu | macSqrSubRnd | macSqrSubSs
  | macSqrSubUu => exact macCondSqr_shapely _ _ _ _ _ s
  | satMr => exact answerShapely_ite (answerShapely_next (shape_setBank _ s)) (answerShapely_next rfl)
  | lshiftHi | lshiftHiOr | lshiftLo | lshiftLoOr | ashiftHi | ashiftHiOr | ashiftLo | ashiftLoOr | normHi | normHiOr
  | normLo | normLoOr | expHi | expHix | expLo | expadj => exact shiftCond_shapely _ _ _ s
  | lshiftImmHi | lshiftImmHiOr | lshiftImmLo | lshiftImmLoOr | ashiftImmHi | ashiftImmHiOr | ashiftImmLo
  | ashiftImmLoOr => exact answerShapely_next (shape_writeSr _ _ s)
  | moveToTop r => exact answerShapely_if (answerShapely_answer (shapely_regToTop _ r) s)
  | moveReg d r => exact answerShapely_answer (shapely_regToReg _ d r) s
  | loadDreg v d => exact answerShapely_next (shape_writeDreg d v s)
  | loadReg v d => exact answerShapely_ite (answerShapely_fault s _) (answerShapely_answer (shapely_writeReg _ d _) s)
  | readDm a d => exact answerShapely_answer (shapely_dmToReg _ a d) s
  | writeDm a r => exact answerShapely_answer (shapely_regToDm _ a r) s
  | readDmInd g d j m => exact answerShapely_answer (shapely_loadDmInd (fun _ => rfl) d _ _) s
  | writeDmInd | writeDmImm => exact answerShapely_answer (shapely_storeDmInd (fun _ => rfl) _ _ _) s
  | readPmInd d j m => exact answerShapely_answer (shapely_loadPmInd (fun _ => rfl) d _ _) s
  | writePmInd => exact answerShapely_answer (shapely_storePmInd (fun _ => rfl) _ _ _) s
  | readIo a d => exact answerShapely_if (answerShapely_answer (shapely_ioToDreg a d) s)
  | writeIo a r => exact answerShapely_if (answerShapely_answer (shapely_writeIoSpace a _) s)
  | jump a c => exact answerShapely_ifCond (shape_transferTo a) s
  | call a c => exact answerShapely_answer (shapely_ifCond (shapely_callTo a)) s
  | jumpInd j c => exact answerShapely_ifCond (fun _ => shape_transferTo _ _) s
  | callInd j c => exact answerShapely_answer (shapely_ifCond fun t => shapely_callTo (indirectTarget j t) t) s
  | jumpFlag a fic => exact answerShapely_ite (answerShapely_next rfl) (answerShapely_next rfl)
  | callFlag a fic => exact answerShapely_ite (answerShapely_answer (shapely_callTo a) s) (answerShapely_next rfl)
  | flagOut fl2 fl1 fl0 fo c =>
    exact answerShapely_ite (answerShapely_fault s _) (answerShapely_ifCond (shape_drivePins fl2 fl1 fl0 fo) s)
  | rts c => exact answerShapely_answer (shapely_ifCond shapely_returnFromSub) s
  | rti c => exact answerShapely_answer (shapely_ifCond shapely_returnFromInterrupt) s
  | doUntil a term => exact answerShapely_answer (shapely_enterLoop a term) s
  | idle | idleN => exact answerShapely_next (shape_enterIdle s)
  | stackControl pp lp cp sp => exact answerShapely_answer (shapely_controlStacks pp lp cp sp) s
  | enaInts | disInts => exact answerShapely_if (answerShapely_next (shape_setInts _ s))
  | modeControl => exact answerShapely_next (shape_setMstat _ s)
  | modify => exact answerShapely_next (shape_postModify _ _ s)
  | nop => exact answerShapely_next rfl
  | compReadDm g z op d j m =>
    exact answerShapely_unlessClash _ _ (shapely_loadDmInd (shape_computeOp z op) d _ _) s
  | compReadPm z op d j m => exact answerShapely_unlessClash _ _ (shapely_loadPmInd (shape_computeOp z op) d _ _) s
  | shiftReadDm g f x d j m =>
    exact answerShapely_unlessClash _ _ (shapely_loadDmInd (shape_computeShift f x) d _ _) s
  | shiftReadPm f x d j m =>
    exact answerShapely_unlessClash _ _ (shapely_loadPmInd (shape_computeShift f x) d _ _) s
  | compMove z op d r => exact execCompMove_shapely z op d r s
  | shiftMove f x d r =>
    exact answerShapely_unlessClash _ _ (shapely_ok (shape_moveBeside (shape_computeShift f x) d r)) s
  | compWriteDm g z op r j m => exact answerShapely_answer (shapely_storeDmInd (shape_computeOp z op) _ _ _) s
  | compWritePm z op r j m => exact answerShapely_answer (shapely_storePmInd (shape_computeOp z op) _ _ _) s
  | shiftWriteDm g f x r j m => exact answerShapely_answer (shapely_storeDmInd (shape_computeShift f x) _ _ _) s
  | shiftWritePm f x r j m => exact answerShapely_answer (shapely_storePmInd (shape_computeShift f x) _ _ _) s
  | dualRead pd dd pi pm di dm => exact answerShapely_answer (shapely_dualLoad (fun _ => rfl) pd dd _ _ _ _) s
  | compDualRead pd dd op pi pm di dm =>
    exact answerShapely_answer (shapely_dualLoad (shape_computeOp .result op) pd dd _ _ _ _) s
  | unused => exact answerShapely_fault s _

/-- `reg = TOPPCSTACK` that completes is a top read and a pop marked. -/
theorem exec_moveFromTop_eq_next {d : Reg} {s t : State} (h : exec (.moveFromTop d) s = .next t) :
    topToReg (encodeWith s.cfg.codes (.moveFromTop d)) d s = .ok t := by
  change execMoveFromTop d s = .next t at h
  unfold execMoveFromTop at h
  split at h
  · exact answer_eq_next.mp h
  · cases h

/-! The sequencer (R335). -/

theorem sampleRequests_keepsShape (s : State) : KeepsShape s (sampleRequests s) :=
  ⟨rfl, fun hs => { hs with latches := mapSources_length _ _ _ _ }⟩

/-- Dispatch samples the requests and goes on, or takes an interrupt with no pop pending. -/
theorem dispatchInterrupt_cases {s t : State} (h : dispatchInterrupt s = .ok t) :
    t = sampleRequests s ∨
      (s.seq.pcPopPending = false ∧ ∃ k src, takeInterrupt k src (sampleRequests s) = .ok t) := by
  unfold dispatchInterrupt at h
  split at h
  · cases h; exact .inl rfl
  · next k src _ =>
    unfold takeUnlessPopPending at h
    split at h
    · split at h
      · cases h
      · cases h; exact .inl rfl
    · next hp => exact .inr ⟨Bool.eq_false_of_not_eq_true hp, k, src, h⟩

/-- Dispatch keeps the shape well formed, and a pop that is pending can still be made. -/
theorem dispatchInterrupt_shape {s t : State} (h : dispatchInterrupt s = .ok t) :
    ((shape s).Wf → (shape t).Wf) ∧ (PopReady s → PopReady t) := by
  obtain rfl | ⟨hp, k, src, h⟩ := dispatchInterrupt_cases h
  · exact ⟨(sampleRequests_keepsShape s).wf, id⟩
  · have hkeeps := (sampleRequests_keepsShape s).trans (shapely_takeInterrupt k src _ t h)
    exact ⟨hkeeps.wf, fun _ hpend => by simp [hkeeps.pending, hp] at hpend⟩

theorem readsShape_fetch : ReadsShape fetch := by
  intro s w t h
  unfold fetch at h
  split at h
  · cases h
  · exact readsShape_readPm _ s w t h

theorem cntrAfterLoop_keepsShape (s : State) : KeepsShape s (cntrAfterLoop s) := by
  unfold cntrAfterLoop
  split
  · exact keepsShape_of_eq rfl
  · next v rest hq => exact ⟨rfl, fun hs => { hs with cntrStack := length_le_of_eq_cons hq hs.cntrStack }⟩

theorem shapely_loopExit : Shapely loopExit := by
  intro s t h
  obtain ⟨⟨e, u⟩, hu, h⟩ := result_bind_eq_ok.mp h
  obtain ⟨⟨a, u'⟩, hu', h⟩ := result_bind_eq_ok.mp h
  have hpops : KeepsShape s u' := (popLoop_keepsShape hu).trans (popPc_keepsShape hu')
  by_cases hce : e.term = .ce <;> simp only [hce, if_true, if_false] at h <;> cases h
  · exact hpops.trans (cntrAfterLoop_keepsShape u')
  · exact hpops

theorem shapely_advance (s : State) : Shapely (advance s) := by
  intro t u h
  unfold advance at h
  split at h
  · cases h; exact keepsShape_of_eq rfl
  · split at h
    · cases h; exact keepsShape_of_eq rfl
    · split at h
      · exact shapely_seq shapely_loopExit (shapely_ok (shape_setPc _)) t u h
      · exact shapely_after (fun a => shapely_ok (shape_setPc a)) t u h

/-- Away from a loop end the sequencer only sets PC. -/
theorem advance_away {s t u : State} (hend : atLoopEnd s = none) (h : advance s t = .ok u) : ∃ a, u = setPc a t := by
  unfold advance at h
  rw [hend] at h
  split at h <;> cases h <;> exact ⟨_, rfl⟩

/-- The pop that was pending is made and no longer pending; without one nothing happens. -/
theorem delayedPop_cases {s t u : State} (h : delayedPop s t = .ok u) :
    (s.seq.pcPopPending = true ∧ ((shape t).Wf → (shape u).Wf) ∧ u.seq.pcPopPending = false) ∨
      (s.seq.pcPopPending = false ∧ u = t) := by
  unfold delayedPop at h
  split at h
  · next hp =>
    obtain ⟨⟨a, v⟩, hv, h⟩ := result_bind_eq_ok.mp h
    cases h
    exact .inl ⟨hp, fun ht => { (popPc_keepsShape hv).wf ht with }, rfl⟩
  · next hp =>
    cases h
    exact .inr ⟨Bool.eq_false_of_not_eq_true hp, rfl⟩

/-- The end of a step leaves no transfer. -/
theorem wellShaped_tick {s : State} (hs : (shape s).Wf) (hp : PopReady s) : wellShaped (tick s) = true :=
  (wellShaped_iff _).mpr ⟨hs, hp, rfl⟩

/-- After an instruction that marks no pop: the one that was pending is made, and none is left. -/
theorem completeInstr_wellShaped {s t u : State} (ht : (shape t).Wf)
    (hpend : t.seq.pcPopPending = s.seq.pcPopPending) (h : completeInstr s t = .ok u) : wellShaped u = true := by
  obtain ⟨v, hv, h⟩ := result_bind_eq_ok.mp h
  obtain ⟨v', hv', h⟩ := result_bind_eq_ok.mp h
  cases h
  have hadvance := shapely_advance s t v hv
  obtain ⟨-, hwf, hdone⟩ | ⟨hp, rfl⟩ := delayedPop_cases hv'
  · exact wellShaped_tick (hwf (hadvance.wf ht)) fun hset => by simp [hdone] at hset
  · exact wellShaped_tick (hadvance.wf ht) fun hset => by simp [hadvance.pending, hpend, hp] at hset

/-- After an instruction that marks a pop: none was pending, and away from a loop end the stack keeps its entry. -/
theorem completeInstr_wellShaped_marked {s t u : State} (ht : (shape t).Wf) (hp : s.seq.pcPopPending = false)
    (hend : atLoopEnd s = none) (hready : t.seq.pcStack ≠ []) (h : completeInstr s t = .ok u) :
    wellShaped u = true := by
  obtain ⟨v, hv, h⟩ := result_bind_eq_ok.mp h
  obtain ⟨v', hv', h⟩ := result_bind_eq_ok.mp h
  cases h
  obtain ⟨a, rfl⟩ := advance_away hend hv
  obtain ⟨hset, -⟩ | ⟨-, rfl⟩ := delayedPop_cases hv'
  · simp [hp] at hset
  · exact wellShaped_tick ht fun _ => hready

/-- An instruction that runs is allowed where it stands, and its answer is completed by the sequencer. -/
theorem runInstr_eq_next {i : Instr} {s t : State} (h : runInstr i s = .next t) :
    loopEndRestricted i s = false ∧ ∃ u, exec i (beginInstr s) = .next u ∧ completeInstr s u = .ok t := by
  unfold runInstr at h
  split at h
  · cases h
  next hfree =>
  split at h
  · cases h
  split at h
  · next u hexec => exact ⟨Bool.eq_false_of_not_eq_true hfree, u, hexec, answer_eq_next.mp h⟩
  · cases h
  · cases h

/-- `reg = TOPPCSTACK` never stands at a loop end (R337). -/
theorem atLoopEnd_of_moveFromTop {d : Reg} {s : State} (h : loopEndRestricted (.moveFromTop d) s = false) :
    atLoopEnd s = none := by
  unfold loopEndRestricted at h
  split at h
  · assumption
  · simp [loopEndUse] at h

theorem runInstr_wellShaped {i : Instr} {s t : State} (hs : (shape s).Wf) (h : runInstr i s = .next t) :
    wellShaped t = true := by
  obtain ⟨hfree, u, hexec, hdone⟩ := runInstr_eq_next h
  have hbegin : KeepsShape s (beginInstr s) := keepsShape_of_eq (shape_beginInstr s)
  by_cases hi : ∃ d, i = .moveFromTop d
  · obtain ⟨d, rfl⟩ := hi
    obtain ⟨hp, hwf, hready⟩ := topToReg_marks (exec_moveFromTop_eq_next hexec)
    exact completeInstr_wellShaped_marked (hwf (hbegin.wf hs)) (hbegin.pending ▸ hp)
      (atLoopEnd_of_moveFromTop hfree) hready hdone
  · have hkeeps := hbegin.trans (exec_shapely i _ (fun d he => hi ⟨d, he⟩) u hexec)
    exact completeInstr_wellShaped (hkeeps.wf hs) hkeeps.pending hdone

theorem runNext_wellShaped {s t : State} (hs : (shape s).Wf) (h : runNext s = .next t) : wellShaped t = true := by
  unfold runNext at h
  split at h
  · cases h
  · next w u hfetch =>
    split at h
    · cases h
    · exact runInstr_wellShaped ((keepsShape_of_eq (readsShape_fetch s w u hfetch)).wf hs) h

/-- Settles O57: dispatch keeps the shape, and an idle step or an instruction then ends well shaped. -/
theorem stepKeepsWellShaped : Obligations.StepKeepsWellShaped := by
  intro s t hs h
  obtain ⟨hwf, hpop, -⟩ := (wellShaped_iff s).mp hs
  unfold step at h
  split at h
  · cases h
  · next u hdispatch =>
    obtain ⟨hkept, hready⟩ := dispatchInterrupt_shape hdispatch
    split at h
    · cases h
      exact wellShaped_tick (hkept hwf) (hready hpop)
    · exact runNext_wellShaped (hkept hwf) h

end Sys2Proof.Machine
end

section
/-! Decoding the word of a well-formed instruction (O1). The decoder's tests read fields that the encoder put, so each
format is settled by reading those fields back; the formats that several instructions share come first. The encoder is
opened by `delta`, because its equation lemmas, one for each of its 132 cases, are slow to make. -/

namespace Sys2Proof

/-! Fields of a word put together from fields, as rules of simp. -/

@[simp] theorem fld_put_eq_extract {k : Nat} (v : BitVec k) (at' lo n : Nat) (h : at' ≤ lo) (h2 : lo + n ≤ at' + k)
    (h3 : lo + n ≤ 24) : fld (put at' v) lo n = v.extractLsb' (lo - at') n :=
  fld_put_within v at' lo n h h2 h3

@[simp] theorem fld_put_eq_zero {k : Nat} (v : BitVec k) (at' lo n : Nat) (h : lo + n ≤ at' ∨ at' + k ≤ lo) :
    fld (put at' v) lo n = 0#n :=
  fld_put_outside v at' lo n h

/-- A field inside one that is zero. -/
theorem fld_eq_zero_within {w : PmWord} {lo n lo' n' : Nat} (hz : fld w lo n = 0#n) (hlo : lo ≤ lo')
    (hhi : lo' + n' ≤ lo + n) : fld w lo' n' = 0#n' := by
  have hw : fld w lo' n' = (fld w lo n).extractLsb' (lo' - lo) n' := by
    simp only [fld]
    ext i hi
    have hin : lo' - lo + i < n := by omega
    have hat : lo + (lo' - lo + i) = lo' + i := by omega
    simp [hin, hat]
  rw [hw, hz]
  simp

section
variable {k : Codes} (h : k.Complete)
include h

/-! Type 9 (R120): its layouts are told apart by bits 7 to 4 and by AMF[4]. -/

theorem decodeWith_encAluReg (f : AluFn) (z : Dest) (y : AluYop) (x : AluXop) (c : Cond) :
    decodeWith k (encAluReg k f z y x c) = .ok (aluRegInstr f z y x c) := by
  simp (disch := decide) [encAluReg, putAluMac, decodeWith, decodeType9, bit, h.dest, h.aluXop, h.aluYop, h.cond]

/-- BO is not zero in a constant form, so that bits 7 to 4 are not those of the register form. -/
theorem decodeWith_encAluConst (f : AluFn) (z : Dest) (n : BitVec 4) (inv : Bool) (x : AluXop) (c : Cond) :
    decodeWith k (encAluConst k f z n inv x c) = .ok (aluConstInstr f z n inv x c) := by
  have hbo : fld (encAluConst k f z n inv x c) 4 2 = boCode k inv := by
    simp (disch := decide) [encAluConst]
  have hlow : fld (encAluConst k f z n inv x c) 4 4 ≠ 0#4 := fun hz =>
    h.boCode_ne_zero inv (hbo.symm.trans (fld_eq_zero_within hz (by decide) (by decide)))
  have hdec : decodeWith k (encAluConst k f z n inv x c) = decodeType9 k (encAluConst k f z n inv x c) := by
    simp (disch := decide) [encAluConst, decodeWith]
  rw [hdec, decodeType9, if_neg hlow, hbo, h.bo]
  simp (disch := decide) [encAluConst, bit, h.dest, h.aluXop, h.constNum, h.cond]

theorem decodeWith_encMacReg (f : MacFn) (z : Dest) (y : MacYop) (x : MacXop) (c : Cond) :
    decodeWith k (encMacReg k f z y x c) = .ok (macRegInstr f z y x c) := by
  simp (disch := decide) [encMacReg, putAluMac, decodeWith, decodeType9, bit, h.dest, h.macXop, h.macYop, h.cond]

theorem decodeWith_encMacSqr (f : MacFn) (z : Dest) (x : MacXop) (c : Cond) :
    decodeWith k (encMacSqr k f z x c) = acceptOr .fieldValue (macSqrInstr f z x c) := by
  simp (disch := decide) [encMacSqr, decodeWith, decodeType9, bit, h.dest, h.macXop, h.cond]

/-! The shifter alone: types 16 and 15 (R126, R127). -/

theorem decodeWith_encShiftCond (f : ShiftFn) (x : ShiftXop) (c : Cond) :
    decodeWith k (encShiftCond k f x c) = .ok (shiftCondInstr f x c) := by
  simp (disch := decide) [encShiftCond, decodeWith, decodeLeadingByte, decodeType16, decodeShift, h.shiftXop, h.cond]

theorem decodeWith_encShiftImm (f : ShiftFn) (x : ShiftXop) (e : BitVec 8) :
    decodeWith k (encShiftImm k f x e) = acceptOr .fieldValue (shiftImmInstr f x e) := by
  simp (disch := decide) [encShiftImm, decodeWith, decodeLeadingByte, decodeType15, bit, h.shiftXop]

/-! Type 17 (R128): the TOPPCSTACK forms have the code of no register. -/

theorem decodeWith_moveFromTop (d : Reg) (hd : (Instr.moveFromTop d).wellFormed = true) :
    decodeWith k (encodeWith k (.moveFromTop d)) = .ok (.moveFromTop d) := by
  delta encodeWith
  simp (disch := decide) [decodeWith, decodeLeadingByte, decodeType17, decodeWithReg, acceptWellFormed, h.reg, hd]

theorem decodeWith_moveToTop (r : Reg) (hr : (Instr.moveToTop r).wellFormed = true) :
    decodeWith k (encodeWith k (.moveToTop r)) = .ok (.moveToTop r) := by
  delta encodeWith
  simp (disch := decide) [decodeWith, decodeLeadingByte, decodeType17, decodeWithReg, acceptWellFormed, h.reg, hr,
    h.reg_ne_top r]

theorem decodeWith_moveReg (d r : Reg) (hdr : (Instr.moveReg d r).wellFormed = true) :
    decodeWith k (encodeWith k (.moveReg d r)) = .ok (.moveReg d r) := by
  delta encodeWith
  simp (disch := decide) [decodeWith, decodeLeadingByte, decodeType17, acceptWellFormed, h.reg, hdr, h.reg_ne_top]

/-! Type 8 (R119): the word of `NONE = <ALU>` is taken from the moves beside an ALU function. -/

theorem decodeWith_noneAlu (f : AluFn) (y : AluYop) (x : AluXop) :
    decodeWith k (encodeWith k (.noneAlu f y x)) = .ok (.noneAlu f y x) := by
  delta encodeWith
  simp (disch := decide) [putAluMac, decodeWith, decodeType8, aluMacOf, bit, h.aluXop, h.aluYop]

/-- A well-formed move beside an ALU function has not the fields that mark `NONE = <ALU>`. -/
theorem not_noneFields {f : AluFn} {y : AluYop} {x : AluXop} {z : Dest} {d r : DReg}
    (hw : (Instr.compMove z (some (.alu f y x)) d r).wellFormed = true) :
    ¬ (destCode k z = 0#1 ∧ dregCode k d = 10#4 ∧ dregCode k r = 10#4) := by
  rintro ⟨hz, hd, hr⟩
  rw [(h.destCode_eq_zero z).mp hz, h.dreg_of_code_ten d hd, h.dreg_of_code_ten r hr] at hw
  cases hw

theorem decodeWith_compMove (z : Dest) (op : Option AluMac) (d r : DReg)
    (hw : (Instr.compMove z op d r).wellFormed = true) :
    decodeWith k (encodeWith k (.compMove z op d r)) = .ok (.compMove z op d r) := by
  rcases op with _ | ⟨f, y, x⟩ | ⟨f, y, x⟩
  · have hz : z = .result := eq_of_beq hw
    delta encodeWith
    simp (disch := decide) [hz, decodeWith, decodeType8, aluMacOf, noComputation, bit, h.zeroIsResult, h.dreg]
  · delta encodeWith
    simp (disch := decide) [putAluMac, decodeWith, decodeType8, aluMacOf, bit, h.aluXop, h.aluYop, h.dest, h.dreg,
      not_noneFields h hw]
  · delta encodeWith
    simp (disch := decide) [putAluMac, decodeWith, decodeType8, aluMacOf, bit, h.macXop, h.macYop, h.dest, h.dreg]

/-- R111: the decoder undoes the encoder, by every complete set of code tables. -/
theorem decodeWith_encodeWith (i : Instr) (hi : i.wellFormed = true) : decodeWith k (encodeWith k i) = .ok i := by
  delta encodeWith
  cases i with
  | aluPassY | aluIncY | aluAddC | aluAdd | aluNotY | aluNegY | aluSubXYBorrow | aluSubXY | aluDecY | aluSubYX
  | aluSubYXBorrow | aluNotX | aluAnd | aluOr | aluXor | aluAbs => exact decodeWith_encAluReg h ..
  | aluAddK | aluAddKC | aluSubXK | aluSubXKBorrow | aluSubKX | aluSubKXBorrow | aluPassK | aluPassKInc | aluPassKDec
  | aluTstbit | aluClrbit | aluSetbit | aluOrNotBit | aluTglbit | aluXorNotBit | aluNotK | aluNegK | aluNotXK
  | aluAbsK => exact decodeWith_encAluConst h ..
  | macMulRnd | macMulSs | macMulSu | macMulUs | macMulUu | macAddRnd | macAddSs | macAddSu | macAddUs | macAddUu
  | macSubRnd | macSubSs | macSubSu | macSubUs | macSubUu => exact decodeWith_encMacReg h ..
  | macSqrMulRnd | macSqrMulSs | macSqrMulUu | macSqrAddRnd | macSqrAddSs | macSqrAddUu | macSqrSubRnd | macSqrSubSs
  | macSqrSubUu => exact decodeWith_encMacSqr h ..
  | lshiftHi | lshiftHiOr | lshiftLo | lshiftLoOr | ashiftHi | ashiftHiOr | ashiftLo | ashiftLoOr | normHi | normHiOr
  | normLo | normLoOr | expHi | expHix | expLo | expadj => exact decodeWith_encShiftCond h ..
  | lshiftImmHi | lshiftImmHiOr | lshiftImmLo | lshiftImmLoOr | ashiftImmHi | ashiftImmHiOr | ashiftImmLo
  | ashiftImmLoOr => exact decodeWith_encShiftImm h ..
  | divs => simp (disch := decide) [decodeWith, decodeLeadingByte, decodeType24, h.divsYop, h.aluXop]
  | divq => simp (disch := decide) [decodeWith, decodeLeadingByte, decodeType23, h.aluXop]
  | noneAlu f y x => exact decodeWith_noneAlu h f y x
  | satMr => simp (disch := decide) [decodeWith, decodeLeadingByte]
  | moveFromTop d => exact decodeWith_moveFromTop h d hi
  | moveToTop r => exact decodeWith_moveToTop h r hi
  | moveReg d r => exact decodeWith_moveReg h d r hi
  | loadDreg => simp (disch := decide) [decodeWith, h.dreg]
  | loadReg | readDm | writeDm => simp (disch := decide) [decodeWith, decodeWithReg, acceptWellFormed, h.reg, hi]
  | readDmInd | writeDmInd =>
    simp (disch := decide) [putAccess, decodeWith, decodeType4, aluMacOf, noComputation, bit, h.dagSel, h.dreg]
  | writeDmImm => simp (disch := decide) [decodeWith, h.dagSel]
  | readPmInd | writePmInd =>
    simp (disch := decide) [putAccess, decodeWith, decodeType5, aluMacOf, noComputation, bit, h.dreg]
  | readIo | writeIo => simp (disch := decide) [decodeWith, decodeLeadingByte, decodeType29, bit, h.dreg]
  | jump | call => simp (disch := decide) [decodeWith, bit, h.cond]
  | jumpInd | callInd => simp (disch := decide) [decodeWith, decodeLeadingByte, decodeType19, bit, h.cond]
  | jumpFlag | callFlag => simp (disch := decide) [decodeWith, decodeLeadingByte, decodeType27, putBit, bit]
  | flagOut => simp (disch := decide) [decodeWith, decodeLeadingByte, decodeType28And31, bit, h.pinOp, h.cond]
  | rts | rti => simp (disch := decide) [decodeWith, decodeLeadingByte, decodeType20, bit, h.cond]
  | doUntil => simp (disch := decide) [decodeWith]
  | idle => simp (disch := decide) [decodeWith, decodeLeadingByte, decodeType28And31, bit]
  | idleN n =>
    simp (disch := decide) [decodeWith, decodeLeadingByte, decodeType28And31, bit, h.slowDiv, h.slowDivCode_ne_zero n]
  | stackControl => simp (disch := decide) [decodeWith, decodeLeadingByte, decodeType26, h.pop, h.stsOp]
  | enaInts | disInts => simp (disch := decide) [decodeWith, decodeLeadingByte, decodeType26]
  | modeControl => simp (disch := decide) [decodeWith, decodeLeadingByte, decodeType18, h.modeOp]
  | modify => simp (disch := decide) [decodeWith, decodeLeadingByte, decodeType21, h.dagSel]
  | nop => simp (disch := decide) [decodeWith, decodeLeadingByte]
  | compReadDm _ _ op | compWriteDm _ _ op =>
    cases op with
    | alu =>
      simp (disch := decide) [putAccess, putAluMac, decodeWith, decodeType4, aluMacOf, bit, h.dagSel, h.dest, h.dreg,
        h.aluXop, h.aluYop]
    | mac =>
      simp (disch := decide) [putAccess, putAluMac, decodeWith, decodeType4, aluMacOf, bit, h.dagSel, h.dest, h.dreg,
        h.macXop, h.macYop]
  | compReadPm _ op | compWritePm _ op =>
    cases op with
    | alu =>
      simp (disch := decide) [putAccess, putAluMac, decodeWith, decodeType5, aluMacOf, bit, h.dest, h.dreg, h.aluXop,
        h.aluYop]
    | mac =>
      simp (disch := decide) [putAccess, putAluMac, decodeWith, decodeType5, aluMacOf, bit, h.dest, h.dreg, h.macXop,
        h.macYop]
  | shiftReadDm | shiftWriteDm =>
    simp (disch := decide) [putAccess, decodeWith, decodeType12, decodeShift, bit, h.dagSel, h.shiftXop, h.dreg]
  | shiftReadPm | shiftWritePm =>
    simp (disch := decide) [putAccess, decodeWith, decodeLeadingByte, decodeType13, decodeShift, bit, h.shiftXop,
      h.dreg]
  | compMove z op d r => exact decodeWith_compMove h z op d r hi
  | shiftMove =>
    simp (disch := decide) [decodeWith, decodeLeadingByte, decodeType14, decodeShift, bit, h.shiftXop, h.dreg]
  | dualRead => simp (disch := decide) [putDual, decodeWith, decodeType1, aluMacOf, bit, h.pmDest, h.dmDest]
  | compDualRead _ _ op =>
    cases op with
    | alu =>
      simp (disch := decide) [putDual, putAluMac, decodeWith, decodeType1, aluMacOf, bit, h.pmDest, h.dmDest,
        h.aluXop, h.aluYop]
    | mac =>
      simp (disch := decide) [putDual, putAluMac, decodeWith, decodeType1, aluMacOf, bit, h.pmDest, h.dmDest,
        h.macXop, h.macYop]
  | unused => simp (disch := decide) [decodeWith, decodeLeadingByte]

end

/-- Settles O1: the round trip by every complete set of tables, of which the default tables are one. -/
theorem decodeEncode : Obligations.DecodeEncode :=
  ⟨fun i hi => decodeWith_encodeWith standardCodes_complete i hi, fun _ i hk hi => decodeWith_encodeWith hk i hi⟩

end Sys2Proof
end

section
/-! Encoding what a word decodes to (O2). Where no operand has two codes the encoder puts back the fields that the
decoder read, and the tests of the decoder fix the bits between them. -/

namespace Sys2Proof

/-! A word is its fields. -/

/-- The words have the same fields from bit `lo` up, the widths given from the lowest field on. -/
def FieldsAgree (v w : PmWord) : Nat → List Nat → Prop
  | lo, [] => 24 ≤ lo
  | lo, n :: rest => fld v lo n = fld w lo n ∧ FieldsAgree v w (lo + n) rest

theorem getLsbD_of_fieldsAgree {v w : PmWord} {widths : List Nat} {lo i : Nat} (h : FieldsAgree v w lo widths)
    (hlo : lo ≤ i) (hi : i < 24) : v.getLsbD i = w.getLsbD i := by
  induction widths generalizing lo with
  | nil => exact absurd (Nat.lt_of_lt_of_le hi h) (Nat.not_lt.mpr hlo)
  | cons n rest ih =>
    obtain ⟨hfld, hrest⟩ := h
    by_cases hin : i < lo + n
    · have hat : lo + (i - lo) = i := by omega
      have hw : i - lo < n := by omega
      simpa [fld, hw, hat] using congrArg (fun b => b.getLsbD (i - lo)) hfld
    · exact ih hrest (by omega)

theorem eq_of_fieldsAgree {v w : PmWord} (widths : List Nat) (h : FieldsAgree v w 0 widths) : v = w :=
  BitVec.eq_of_getLsbD_eq fun _ hi => getLsbD_of_fieldsAgree h (Nat.zero_le _) hi

/-- A field as the number the statements read (R160). -/
theorem toNat_fld (w : PmWord) (lo n : Nat) : (fld w lo n).toNat = Machine.Claims.field w lo n := by
  simp [fld, Machine.Claims.field, Nat.shiftRight_eq_div_pow]

theorem fld_eq_iff (w : PmWord) (lo n : Nat) (v : BitVec n) :
    fld w lo n = v ↔ Machine.Claims.field w lo n = v.toNat := by
  rw [← toNat_fld, BitVec.toNat_inj]

theorem fld_one (w : PmWord) (n : Nat) : fld w n 1 = BitVec.ofBool (bit w n) := by
  unfold bit
  generalize fld w n 1 = b
  revert b
  decide

/-! The codes the sources give (R143 to R145): no function has two. -/

@[simp] theorem termCode_termOf (b : BitVec 4) : termCode (termOf b) = b := by
  revert b; decide

@[simp] theorem aluFnCode_aluFnOf (b : BitVec 4) : aluFnCode (aluFnOf b) = b := by
  revert b; decide

@[simp] theorem shiftFnCode_shiftFnOf (b : BitVec 4) : shiftFnCode (shiftFnOf b) = b := by
  revert b; decide

/-! The halves of the constant's number (R120) and of the target of type 27 (R138), at their widths. -/

@[simp] theorem constHigh_append (a b : BitVec 2) : (a ++ b).extractLsb' 2 2 = a := BitVec.extractLsb'_append_eq_left

@[simp] theorem constLow_append (a b : BitVec 2) : (a ++ b).extractLsb' 0 2 = b := BitVec.extractLsb'_append_eq_right

@[simp] theorem targetHigh_append (a : BitVec 2) (b : BitVec 12) : (a ++ b).extractLsb' 12 2 = a :=
  BitVec.extractLsb'_append_eq_left

@[simp] theorem targetLow_append (a : BitVec 2) (b : BitVec 12) : (a ++ b).extractLsb' 0 12 = b :=
  BitVec.extractLsb'_append_eq_right

theorem macFnCode_of_macFnOf {b : BitVec 4} {f : MacFn} (h : macFnOf b = some f) : macFnCode f = b := by
  have hall : ∀ b, ∀ f ∈ macFnOf b, macFnCode f = b := by decide
  exact hall b f h

theorem macFnOf_eq_none_iff (b : BitVec 4) : macFnOf b = none ↔ b = 0#4 := by
  revert b; decide

/-- A code table set by which no operand has two codes. -/
structure Codes.Exact (k : Codes) : Prop where
  aluXop : ∀ b, aluXopCode k (aluXopOf k b) = b
  macXop : ∀ b, macXopCode k (macXopOf k b) = b
  shiftXop : ∀ b, ∀ v ∈ shiftXopOf k b, shiftXopCode k v = b
  aluYop : ∀ b, aluYopCode k (aluYopOf k b) = b
  macYop : ∀ b, macYopCode k (macYopOf k b) = b
  dest : ∀ b, destCode k (destOf k b) = b
  dreg : ∀ b, dregCode k (dregOf k b) = b
  cond : ∀ b, condCode k (condOf k b) = b
  bo : ∀ b, ∀ v ∈ boOf k b, boCode k v = b
  constNum : ∀ b, constNumCode k (constNumOf k b) = b
  dmDest : ∀ b, dmDestCode k (dmDestOf k b) = b
  pmDest : ∀ b, pmDestCode k (pmDestOf k b) = b
  dagSel : ∀ b, dagSelCode k (dagSelOf k b) = b
  pinOp : ∀ b, pinOpCode k (pinOpOf k b) = b
  modeOp : ∀ b, modeOpCode k (modeOpOf k b) = b
  pop : ∀ b, popCode k (popOf k b) = b
  stsOp : ∀ b, stsOpCode k (stsOpOf k b) = b
  slowDiv : ∀ b, ∀ v ∈ slowDivOf k b, slowDivCode k v = b
  rgp : ∀ rgp reg, ∀ r ∈ regOf k rgp reg, rgpCode k r = rgp
  reg : ∀ rgp reg, ∀ r ∈ regOf k rgp reg, regCode k r = reg

theorem standardCodes_exact : standardCodes.Exact where
  aluXop := by decide
  macXop := by decide
  shiftXop := by decide
  aluYop := by decide
  macYop := by decide
  dest := by decide
  dreg := by decide
  cond := by decide
  bo := by decide
  constNum := by decide
  dmDest := by decide
  pmDest := by decide
  dagSel := by decide
  pinOp := by decide
  modeOp := by decide
  pop := by decide
  stsOp := by decide
  slowDiv := by decide
  rgp := by decide
  reg := by decide

/-! The formats that several instructions share. -/

theorem encodeWith_aluRegInstr (k : Codes) (f : AluFn) (z : Dest) (y : AluYop) (x : AluXop) (c : Cond) :
    encodeWith k (aluRegInstr f z y x c) = encAluReg k f z y x c := by
  cases f <;> rfl

theorem wellFormed_aluRegInstr (f : AluFn) (z : Dest) (y : AluYop) (x : AluXop) (c : Cond) :
    (aluRegInstr f z y x c).wellFormed = true := by
  cases f <;> rfl

theorem encodeWith_aluConstInstr (k : Codes) (f : AluFn) (z : Dest) (n : BitVec 4) (inv : Bool) (x : AluXop)
    (c : Cond) : encodeWith k (aluConstInstr f z n inv x c) = encAluConst k f z n inv x c := by
  cases inv <;> cases f <;> rfl

theorem wellFormed_aluConstInstr (f : AluFn) (z : Dest) (n : BitVec 4) (inv : Bool) (x : AluXop) (c : Cond) :
    (aluConstInstr f z n inv x c).wellFormed = true := by
  cases inv <;> cases f <;> rfl

theorem encodeWith_macRegInstr (k : Codes) (f : MacFn) (z : Dest) (y : MacYop) (x : MacXop) (c : Cond) :
    encodeWith k (macRegInstr f z y x c) = encMacReg k f z y x c := by
  obtain ⟨op, fmt⟩ := f
  cases op <;> cases fmt <;> rfl

theorem wellFormed_macRegInstr (f : MacFn) (z : Dest) (y : MacYop) (x : MacXop) (c : Cond) :
    (macRegInstr f z y x c).wellFormed = true := by
  obtain ⟨op, fmt⟩ := f
  cases op <;> cases fmt <;> rfl

theorem encodeWith_shiftCondInstr (k : Codes) (f : ShiftFn) (x : ShiftXop) (c : Cond) :
    encodeWith k (shiftCondInstr f x c) = encShiftCond k f x c := by
  rcases f with ⟨_ | _, _ | _⟩ | ⟨_ | _, _ | _⟩ | ⟨_ | _, _ | _⟩ | _ | _ | _ | _ <;> rfl

theorem wellFormed_shiftCondInstr (f : ShiftFn) (x : ShiftXop) (c : Cond) :
    (shiftCondInstr f x c).wellFormed = true := by
  rcases f with ⟨_ | _, _ | _⟩ | ⟨_ | _, _ | _⟩ | ⟨_ | _, _ | _⟩ | _ | _ | _ | _ <;> rfl

/-- `i` is an instruction and `w` is its word. -/
def IsWordOf (k : Codes) (w : PmWord) (i : Instr) : Prop := i.wellFormed = true ∧ encodeWith k i = w

theorem isWordOf_macSqrInstr {k : Codes} {f : MacFn} {z : Dest} {x : MacXop} {c : Cond} {i : Instr}
    (h : macSqrInstr f z x c = some i) : IsWordOf k (encMacSqr k f z x c) i := by
  obtain ⟨op, fmt⟩ := f
  cases op <;> cases fmt <;> cases h <;> exact ⟨rfl, rfl⟩

theorem isWordOf_shiftImmInstr {k : Codes} {f : ShiftFn} {x : ShiftXop} {e : BitVec 8} {i : Instr}
    (h : shiftImmInstr f x e = some i) : IsWordOf k (encShiftImm k f x e) i := by
  rcases f with ⟨_ | _, _ | _⟩ | ⟨_ | _, _ | _⟩ | _ | _ | _ | _ | _ <;> cases h <;> exact ⟨rfl, rfl⟩

/-! What an accepted word has passed. -/

theorem ite_eq_ok {p : Prop} [Decidable p] {a b : Decoded} {i : Instr} :
    (if p then a else b) = .ok i ↔ (p ∧ a = .ok i) ∨ (¬ p ∧ b = .ok i) := by
  split <;> simp [*]

theorem acceptOr_eq_ok {r : DecodeReject} {o : Option Instr} {i : Instr} : acceptOr r o = .ok i ↔ o = some i := by
  cases o <;> simp [acceptOr]

theorem acceptWellFormed_eq_ok {i j : Instr} : acceptWellFormed i = .ok j ↔ i.wellFormed = true ∧ i = j := by
  unfold acceptWellFormed
  split <;> simp [*]

theorem decodeWithReg_eq_ok {k : Codes} {rgp : BitVec 2} {reg : BitVec 4} {mk : Reg → Instr} {i : Instr} :
    decodeWithReg k rgp reg mk = .ok i ↔ ∃ r, regOf k rgp reg = some r ∧ (mk r).wellFormed = true ∧ mk r = i := by
  unfold decodeWithReg
  split <;> simp [acceptWellFormed_eq_ok, *]

theorem decodeShift_eq_ok {k : Codes} {w : PmWord} {mk : ShiftFn → ShiftXop → Instr} {i : Instr} :
    decodeShift k w mk = .ok i ↔ ∃ x, shiftXopOf k (fld w 8 3) = some x ∧ mk (shiftFnOf (fld w 11 4)) x = i := by
  unfold decodeShift
  split <;> simp [*]

theorem noComputation_eq_ok {w : PmWord} {i j : Instr} :
    noComputation w i = .ok j ↔ (fld w 8 5 = 0#5 ∧ fld w 18 1 = 0#1) ∧ i = j := by
  unfold noComputation
  split <;> simp [*]

theorem aluMacOf_eq_none {k : Codes} {w : PmWord} :
    aluMacOf k w = none ↔ fld w 13 4 = 0#4 ∧ fld w 17 1 = 0#1 := by
  rw [fld_one, ← macFnOf_eq_none_iff]
  unfold aluMacOf
  split
  · simp [*]
  · split <;> simp [*]

theorem fld_putAluMac_outside (k : Codes) (op : AluMac) {lo n : Nat} (h : lo + n ≤ 8 ∨ 18 ≤ lo) :
    fld (putAluMac k op) lo n = 0#n := by
  cases op <;> simp (disch := omega) only [putAluMac, fld_or, fld_put_outside, BitVec.or_zero]

section
variable {k : Codes} (e : k.Exact)
include e

theorem Codes.Exact.divsYop (b : BitVec 2) (y : DivsYop) (h : divsYopOf k b = some y) : divsYopCode k y = b := by
  unfold divsYopOf at h
  split at h
  · next hy => cases h; simpa [divsYopCode, DivsYop.toYop, hy] using e.aluYop b
  · next hy => cases h; simpa [divsYopCode, DivsYop.toYop, hy] using e.aluYop b
  · cases h
  · cases h

/-- The clause that bits 17 to 8 name is put back into them. -/
theorem fld_putAluMac {w : PmWord} {op : AluMac} (h : aluMacOf k w = some op) :
    fld (putAluMac k op) 8 3 = fld w 8 3 ∧ fld (putAluMac k op) 11 2 = fld w 11 2 ∧
      fld (putAluMac k op) 13 4 = fld w 13 4 ∧ fld (putAluMac k op) 17 1 = fld w 17 1 := by
  unfold aluMacOf at h
  split at h
  · next hbit =>
    cases h
    simp (disch := decide) [putAluMac, fld_one w 17, hbit, e.aluXop, e.aluYop]
  · next hbit =>
    split at h
    · next f hf =>
      cases h
      simp (disch := decide) [putAluMac, fld_one w 17, hbit, macFnCode_of_macFnOf hf, e.macXop, e.macYop]
    · cases h

/-! The types (R112 to R142). The widths are those of the fields of the format, from bit 0 up. -/

theorem decodeType1_isWordOf {w : PmWord} {i : Instr} (hw : fld w 22 2 = 3#2) (hd : decodeType1 k w = .ok i) :
    IsWordOf k w i := by
  unfold decodeType1 at hd
  split at hd
  · next op hop =>
    cases hd
    refine ⟨rfl, eq_of_fieldsAgree [2, 2, 2, 2, 3, 2, 4, 1, 2, 2, 2] ?_⟩
    delta encodeWith
    simp (disch := decide) [FieldsAgree, putDual, fld_putAluMac_outside, fld_putAluMac e hop, hw, e.pmDest, e.dmDest]
  · next hop =>
    obtain ⟨h13, h17⟩ := aluMacOf_eq_none.mp hop
    split at hd
    · next h8 =>
      cases hd
      refine ⟨rfl, eq_of_fieldsAgree [2, 2, 2, 2, 5, 4, 1, 2, 2, 2] ?_⟩
      delta encodeWith
      simp (disch := decide) [FieldsAgree, putDual, hw, h13, h17, h8, e.pmDest, e.dmDest]
    · cases hd

theorem writeDmImm_isWordOf {w : PmWord} (hw : fld w 21 3 = 5#3) :
    IsWordOf k w (.writeDmImm (dagSelOf k (fld w 20 1)) (fld w 4 16) (fld w 2 2) (fld w 0 2)) := by
  refine ⟨rfl, eq_of_fieldsAgree [2, 2, 16, 1, 3] ?_⟩
  delta encodeWith
  simp (disch := decide) [FieldsAgree, hw, e.dagSel]

theorem readDm_isWordOf {w : PmWord} {i : Instr} (hw : fld w 20 4 = 8#4)
    (hd : decodeWithReg k (fld w 18 2) (fld w 0 4) (.readDm (fld w 4 14)) = .ok i) : IsWordOf k w i := by
  obtain ⟨r, hr, hwf, rfl⟩ := decodeWithReg_eq_ok.mp hd
  refine ⟨hwf, eq_of_fieldsAgree [4, 14, 2, 4] ?_⟩
  delta encodeWith
  simp (disch := decide) [FieldsAgree, hw, e.rgp _ _ _ hr, e.reg _ _ _ hr]

theorem writeDm_isWordOf {w : PmWord} {i : Instr} (hw : fld w 20 4 = 9#4)
    (hd : decodeWithReg k (fld w 18 2) (fld w 0 4) (.writeDm (fld w 4 14)) = .ok i) : IsWordOf k w i := by
  obtain ⟨r, hr, hwf, rfl⟩ := decodeWithReg_eq_ok.mp hd
  refine ⟨hwf, eq_of_fieldsAgree [4, 14, 2, 4] ?_⟩
  delta encodeWith
  simp (disch := decide) [FieldsAgree, hw, e.rgp _ _ _ hr, e.reg _ _ _ hr]

theorem loadReg_isWordOf {w : PmWord} {i : Instr} (hw : fld w 20 4 = 3#4)
    (hd : decodeWithReg k (fld w 18 2) (fld w 0 4) (.loadReg (fld w 4 14)) = .ok i) : IsWordOf k w i := by
  obtain ⟨r, hr, hwf, rfl⟩ := decodeWithReg_eq_ok.mp hd
  refine ⟨hwf, eq_of_fieldsAgree [4, 14, 2, 4] ?_⟩
  delta encodeWith
  simp (disch := decide) [FieldsAgree, hw, e.rgp _ _ _ hr, e.reg _ _ _ hr]

theorem loadDreg_isWordOf {w : PmWord} (hw : fld w 20 4 = 4#4) :
    IsWordOf k w (.loadDreg (fld w 4 16) (dregOf k (fld w 0 4))) := by
  refine ⟨rfl, eq_of_fieldsAgree [4, 16, 4] ?_⟩
  delta encodeWith
  simp (disch := decide) [FieldsAgree, hw, e.dreg]

theorem decodeType4_isWordOf {w : PmWord} {i : Instr} (hw : fld w 21 3 = 3#3) (hd : decodeType4 k w = .ok i) :
    IsWordOf k w i := by
  unfold decodeType4 at hd
  split at hd
  · next op hop =>
    split at hd <;> next hbit =>
      cases hd
      refine ⟨rfl, eq_of_fieldsAgree [2, 2, 4, 3, 2, 4, 1, 1, 1, 1, 3] ?_⟩
      delta encodeWith
      simp (disch := decide) [FieldsAgree, putAccess, fld_putAluMac_outside, fld_putAluMac e hop, hw, fld_one w 19,
        hbit, e.dreg, e.dest, e.dagSel]
  · next hop =>
    obtain ⟨h13, h17⟩ := aluMacOf_eq_none.mp hop
    obtain ⟨⟨h8, h18⟩, rfl⟩ := noComputation_eq_ok.mp hd
    split <;> next hbit =>
      refine ⟨rfl, eq_of_fieldsAgree [2, 2, 4, 5, 4, 1, 1, 1, 1, 3] ?_⟩
      delta encodeWith
      simp (disch := decide) [FieldsAgree, putAccess, hw, h13, h17, h8, h18, fld_one w 19, hbit, e.dreg, e.dagSel]

theorem decodeType5_isWordOf {w : PmWord} {i : Instr} (hw : fld w 20 4 = 5#4) (hd : decodeType5 k w = .ok i) :
    IsWordOf k w i := by
  unfold decodeType5 at hd
  split at hd
  · next op hop =>
    split at hd <;> next hbit =>
      cases hd
      refine ⟨rfl, eq_of_fieldsAgree [2, 2, 4, 3, 2, 4, 1, 1, 1, 4] ?_⟩
      delta encodeWith
      simp (disch := decide) [FieldsAgree, putAccess, fld_putAluMac_outside, fld_putAluMac e hop, hw, fld_one w 19,
        hbit, e.dreg, e.dest]
  · next hop =>
    obtain ⟨h13, h17⟩ := aluMacOf_eq_none.mp hop
    obtain ⟨⟨h8, h18⟩, rfl⟩ := noComputation_eq_ok.mp hd
    split <;> next hbit =>
      refine ⟨rfl, eq_of_fieldsAgree [2, 2, 4, 5, 4, 1, 1, 1, 4] ?_⟩
      delta encodeWith
      simp (disch := decide) [FieldsAgree, putAccess, hw, h13, h17, h8, h18, fld_one w 19, hbit, e.dreg]

/-- Only the fields that mark `NONE = <ALU>` name AR = AR beside an ALU result to AR. -/
theorem wellFormed_compMove_of_fields (hk : k.Complete) {f : AluFn} {y : AluYop} {x : AluXop} {z : BitVec 1}
    {d r : BitVec 4} (h : ¬ (z = 0#1 ∧ d = 10#4 ∧ r = 10#4)) :
    (Instr.compMove (destOf k z) (some (.alu f y x)) (dregOf k d) (dregOf k r)).wellFormed = true := by
  have hz : destOf k z = .result → z = 0#1 := fun hv => by rw [← e.dest z, hv, hk.zeroIsResult]
  have har : ∀ b, dregOf k b = .ar → b = 10#4 := fun b hv => by rw [← e.dreg b, hv, ← hk.tenIsAr, e.dreg]
  show (!(destOf k z == .result && dregOf k d == .ar && dregOf k r == .ar)) = true
  simp only [Bool.not_eq_true', Bool.and_eq_false_imp, Bool.and_eq_true, beq_iff_eq, beq_eq_false_iff_ne]
  exact fun hzd hr => h ⟨hz hzd.1, har d hzd.2, har r hr⟩

theorem decodeType8_isWordOf (hk : k.Complete) {w : PmWord} {i : Instr} (hw : fld w 19 5 = 5#5)
    (hd : decodeType8 k w = .ok i) : IsWordOf k w i := by
  unfold decodeType8 at hd
  split at hd
  · next f y x hop =>
    split at hd
    · next hnone =>
      obtain ⟨h18, h4, h0⟩ := hnone
      cases hd
      refine ⟨rfl, eq_of_fieldsAgree [4, 4, 3, 2, 4, 1, 1, 5] ?_⟩
      delta encodeWith
      simp (disch := decide) [FieldsAgree, fld_putAluMac_outside, fld_putAluMac e hop, hw, h18, h4, h0]
    · next hmove =>
      cases hd
      refine ⟨wellFormed_compMove_of_fields e hk hmove, eq_of_fieldsAgree [4, 4, 3, 2, 4, 1, 1, 5] ?_⟩
      delta encodeWith
      simp (disch := decide) [FieldsAgree, fld_putAluMac_outside, fld_putAluMac e hop, hw, e.dest, e.dreg]
  · next f y x hop =>
    cases hd
    refine ⟨rfl, eq_of_fieldsAgree [4, 4, 3, 2, 4, 1, 1, 5] ?_⟩
    delta encodeWith
    simp (disch := decide) [FieldsAgree, fld_putAluMac_outside, fld_putAluMac e hop, hw, e.dest, e.dreg]
  · next hop =>
    obtain ⟨h13, h17⟩ := aluMacOf_eq_none.mp hop
    obtain ⟨⟨h8, h18⟩, rfl⟩ := noComputation_eq_ok.mp hd
    refine ⟨rfl, eq_of_fieldsAgree [4, 4, 5, 4, 1, 1, 5] ?_⟩
    delta encodeWith
    simp (disch := decide) [FieldsAgree, hw, h13, h17, h8, h18, hk.zeroIsResult, e.dreg]

theorem decodeType9_isWordOf {w : PmWord} {i : Instr} (hw : fld w 19 5 = 4#5) (hd : decodeType9 k w = .ok i) :
    IsWordOf k w i := by
  unfold decodeType9 at hd
  split at hd
  · next hbit =>
    split at hd
    · next h4 =>
      cases hd
      refine ⟨wellFormed_aluRegInstr .., ?_⟩
      rw [encodeWith_aluRegInstr]
      apply eq_of_fieldsAgree [4, 4, 3, 2, 4, 1, 1, 5]
      simp (disch := decide) [FieldsAgree, encAluReg, putAluMac, hw, h4, fld_one w 17, hbit, e.dest, e.aluXop,
        e.aluYop, e.cond]
    · split at hd
      · next inv hinv =>
        cases hd
        refine ⟨wellFormed_aluConstInstr .., ?_⟩
        rw [encodeWith_aluConstInstr]
        apply eq_of_fieldsAgree [4, 2, 2, 3, 2, 4, 1, 1, 5]
        simp (disch := decide) [FieldsAgree, encAluConst, hw, fld_one w 17, hbit, e.dest, e.aluXop, e.constNum,
          e.bo _ _ hinv, e.cond]
      · cases hd
  · next hbit =>
    split at hd
    · cases hd
    · next f hf =>
      split at hd
      · next h4 =>
        cases hd
        refine ⟨wellFormed_macRegInstr .., ?_⟩
        rw [encodeWith_macRegInstr]
        apply eq_of_fieldsAgree [4, 4, 3, 2, 4, 1, 1, 5]
        simp (disch := decide) [FieldsAgree, encMacReg, putAluMac, hw, h4, fld_one w 17, hbit,
          macFnCode_of_macFnOf hf, e.dest, e.macXop, e.macYop, e.cond]
      · split at hd
        · next hsqr =>
          obtain ⟨h4, h11⟩ := hsqr
          obtain ⟨hwf, henc⟩ := isWordOf_macSqrInstr (k := k) (acceptOr_eq_ok.mp hd)
          refine ⟨hwf, henc.trans (eq_of_fieldsAgree [4, 4, 3, 2, 4, 1, 1, 5] ?_)⟩
          simp (disch := decide) [FieldsAgree, encMacSqr, hw, h4, h11, fld_one w 17, hbit, macFnCode_of_macFnOf hf,
            e.dest, e.macXop, e.cond]
        · cases hd

theorem jumpCall_isWordOf {w : PmWord} (hw : fld w 19 5 = 3#5) :
    IsWordOf k w (if bit w 18 then .call (fld w 4 14) (condOf k (fld w 0 4))
      else .jump (fld w 4 14) (condOf k (fld w 0 4))) := by
  split <;> next hbit =>
    refine ⟨rfl, eq_of_fieldsAgree [4, 14, 1, 5] ?_⟩
    delta encodeWith
    simp (disch := decide) [FieldsAgree, hw, fld_one w 18, hbit, e.cond]

omit e in
theorem doUntil_isWordOf {w : PmWord} (hw : fld w 18 6 = 5#6) :
    IsWordOf k w (.doUntil (fld w 4 14) (termOf (fld w 0 4))) := by
  refine ⟨rfl, eq_of_fieldsAgree [4, 14, 6] ?_⟩
  delta encodeWith
  simp (disch := decide) [FieldsAgree, hw]

theorem decodeType12_isWordOf {w : PmWord} {i : Instr} (hw : fld w 17 7 = 9#7) (hd : decodeType12 k w = .ok i) :
    IsWordOf k w i := by
  obtain ⟨x, hx, rfl⟩ := decodeShift_eq_ok.mp hd
  split <;> next hbit =>
    refine ⟨rfl, eq_of_fieldsAgree [2, 2, 4, 3, 4, 1, 1, 7] ?_⟩
    delta encodeWith
    simp (disch := decide) [FieldsAgree, putAccess, hw, fld_one w 15, hbit, e.shiftXop _ _ hx, e.dreg, e.dagSel]

/-! The types whose leading byte is fixed. -/

theorem decodeType13_isWordOf {w : PmWord} {i : Instr} (hw : fld w 16 8 = 0x11#8) (hd : decodeType13 k w = .ok i) :
    IsWordOf k w i := by
  obtain ⟨x, hx, rfl⟩ := decodeShift_eq_ok.mp hd
  split <;> next hbit =>
    refine ⟨rfl, eq_of_fieldsAgree [2, 2, 4, 3, 4, 1, 8] ?_⟩
    delta encodeWith
    simp (disch := decide) [FieldsAgree, putAccess, hw, fld_one w 15, hbit, e.shiftXop _ _ hx, e.dreg]

theorem decodeType14_isWordOf {w : PmWord} {i : Instr} (hw : fld w 16 8 = 0x10#8) (hd : decodeType14 k w = .ok i) :
    IsWordOf k w i := by
  unfold decodeType14 at hd
  split at hd
  · cases hd
  · next hbit =>
    obtain ⟨x, hx, rfl⟩ := decodeShift_eq_ok.mp hd
    refine ⟨rfl, eq_of_fieldsAgree [4, 4, 3, 4, 1, 8] ?_⟩
    delta encodeWith
    simp (disch := decide) [FieldsAgree, hw, fld_one w 15, hbit, e.shiftXop _ _ hx, e.dreg]

theorem decodeType15_isWordOf {w : PmWord} {i : Instr} (hw : fld w 16 8 = 0x0F#8) (hd : decodeType15 k w = .ok i) :
    IsWordOf k w i := by
  unfold decodeType15 at hd
  split at hd
  · cases hd
  · next hbit =>
    split at hd
    · next x hx =>
      obtain ⟨hwf, henc⟩ := isWordOf_shiftImmInstr (k := k) (acceptOr_eq_ok.mp hd)
      refine ⟨hwf, henc.trans (eq_of_fieldsAgree [8, 3, 4, 1, 8] ?_)⟩
      simp (disch := decide) [FieldsAgree, encShiftImm, hw, fld_one w 15, hbit, e.shiftXop _ _ hx]
    · cases hd

theorem decodeType16_isWordOf {w : PmWord} {i : Instr} (hw : fld w 16 8 = 0x0E#8) (hd : decodeType16 k w = .ok i) :
    IsWordOf k w i := by
  unfold decodeType16 at hd
  split at hd
  · next hfix =>
    obtain ⟨h15, h4⟩ := hfix
    obtain ⟨x, hx, rfl⟩ := decodeShift_eq_ok.mp hd
    refine ⟨wellFormed_shiftCondInstr .., ?_⟩
    rw [encodeWith_shiftCondInstr]
    apply eq_of_fieldsAgree [4, 4, 3, 4, 1, 8]
    simp (disch := decide) [FieldsAgree, encShiftCond, hw, h15, h4, e.shiftXop _ _ hx, e.cond]
  · cases hd

theorem decodeType17_isWordOf {w : PmWord} {i : Instr} (hw : fld w 16 8 = 0x0D#8) (hd : decodeType17 k w = .ok i) :
    IsWordOf k w i := by
  unfold decodeType17 at hd
  split at hd
  · next h12 =>
    split at hd
    · next htop =>
      obtain ⟨h8, h0⟩ := htop
      obtain ⟨d, hr, hwf, rfl⟩ := decodeWithReg_eq_ok.mp hd
      refine ⟨hwf, eq_of_fieldsAgree [4, 4, 2, 2, 4, 8] ?_⟩
      delta encodeWith
      simp (disch := decide) [FieldsAgree, hw, h12, h8, h0, e.rgp _ _ _ hr, e.reg _ _ _ hr]
    · split at hd
      · next htop =>
        obtain ⟨h10, h4⟩ := htop
        obtain ⟨r, hr, hwf, rfl⟩ := decodeWithReg_eq_ok.mp hd
        refine ⟨hwf, eq_of_fieldsAgree [4, 4, 2, 2, 4, 8] ?_⟩
        delta encodeWith
        simp (disch := decide) [FieldsAgree, hw, h12, h10, h4, e.rgp _ _ _ hr, e.reg _ _ _ hr]
      · split at hd
        · next d r hdst hsrc =>
          obtain ⟨hwf, rfl⟩ := acceptWellFormed_eq_ok.mp hd
          refine ⟨hwf, eq_of_fieldsAgree [4, 4, 2, 2, 4, 8] ?_⟩
          delta encodeWith
          simp (disch := decide) [FieldsAgree, hw, h12, e.rgp _ _ _ hdst, e.reg _ _ _ hdst, e.rgp _ _ _ hsrc,
            e.reg _ _ _ hsrc]
        · cases hd
  · cases hd

theorem decodeType18_isWordOf {w : PmWord} {i : Instr} (hw : fld w 16 8 = 0x0C#8) (hd : decodeType18 k w = .ok i) :
    IsWordOf k w i := by
  unfold decodeType18 at hd
  split at hd
  · next h0 =>
    cases hd
    refine ⟨rfl, eq_of_fieldsAgree [2, 2, 2, 2, 2, 2, 2, 2, 8] ?_⟩
    delta encodeWith
    simp (disch := decide) [FieldsAgree, hw, h0, e.modeOp]
  · cases hd

theorem decodeType19_isWordOf {w : PmWord} {i : Instr} (hw : fld w 16 8 = 0x0B#8) (hd : decodeType19 k w = .ok i) :
    IsWordOf k w i := by
  unfold decodeType19 at hd
  split at hd
  · next hfix =>
    obtain ⟨h8, h5⟩ := hfix
    cases hd
    split <;> next hbit =>
      refine ⟨rfl, eq_of_fieldsAgree [4, 1, 1, 2, 8, 8] ?_⟩
      delta encodeWith
      simp (disch := decide) [FieldsAgree, hw, h8, h5, fld_one w 4, hbit, e.cond]
  · cases hd

theorem decodeType20_isWordOf {w : PmWord} {i : Instr} (hw : fld w 16 8 = 0x0A#8) (hd : decodeType20 k w = .ok i) :
    IsWordOf k w i := by
  unfold decodeType20 at hd
  split at hd
  · next h5 =>
    cases hd
    split <;> next hbit =>
      refine ⟨rfl, eq_of_fieldsAgree [4, 1, 11, 8] ?_⟩
      delta encodeWith
      simp (disch := decide) [FieldsAgree, hw, h5, fld_one w 4, hbit, e.cond]
  · cases hd

theorem decodeType21_isWordOf {w : PmWord} {i : Instr} (hw : fld w 16 8 = 0x09#8) (hd : decodeType21 k w = .ok i) :
    IsWordOf k w i := by
  unfold decodeType21 at hd
  split at hd
  · next h5 =>
    cases hd
    refine ⟨rfl, eq_of_fieldsAgree [2, 2, 1, 11, 8] ?_⟩
    delta encodeWith
    simp (disch := decide) [FieldsAgree, hw, h5, e.dagSel]
  · cases hd

omit e in
theorem unused_isWordOf {w : PmWord} (hw : fld w 16 8 = 0x08#8) : IsWordOf k w (.unused (fld w 0 16)) := by
  refine ⟨rfl, eq_of_fieldsAgree [16, 8] ?_⟩
  delta encodeWith
  simp (disch := decide) [FieldsAgree, hw]

theorem decodeType23_isWordOf {w : PmWord} {i : Instr} (hw : fld w 16 8 = 0x07#8) (hd : decodeType23 k w = .ok i) :
    IsWordOf k w i := by
  unfold decodeType23 at hd
  split at hd
  · next hfix =>
    obtain ⟨h11, h0⟩ := hfix
    cases hd
    refine ⟨rfl, eq_of_fieldsAgree [8, 3, 5, 8] ?_⟩
    delta encodeWith
    simp (disch := decide) [FieldsAgree, hw, h11, h0, e.aluXop]
  · cases hd

theorem decodeType24_isWordOf {w : PmWord} {i : Instr} (hw : fld w 16 8 = 0x06#8) (hd : decodeType24 k w = .ok i) :
    IsWordOf k w i := by
  unfold decodeType24 at hd
  split at hd
  · next hfix =>
    obtain ⟨h13, h0⟩ := hfix
    split at hd
    · next y hy =>
      cases hd
      refine ⟨rfl, eq_of_fieldsAgree [8, 3, 2, 3, 8] ?_⟩
      delta encodeWith
      simp (disch := decide) [FieldsAgree, hw, h13, h0, e.divsYop _ _ hy, e.aluXop]
    · cases hd
  · cases hd

omit e in
theorem satMr_isWordOf {w : PmWord} (hw : fld w 16 8 = 0x05#8) (h0 : fld w 0 16 = 0#16) : IsWordOf k w .satMr := by
  refine ⟨rfl, eq_of_fieldsAgree [16, 8] ?_⟩
  delta encodeWith
  simp (disch := decide) [FieldsAgree, hw, h0]

theorem decodeType26_isWordOf {w : PmWord} {i : Instr} (hw : fld w 16 8 = 0x04#8) (hd : decodeType26 k w = .ok i) :
    IsWordOf k w i := by
  unfold decodeType26 at hd
  split at hd
  · next h5 =>
    cases hd
    refine ⟨rfl, eq_of_fieldsAgree [2, 1, 1, 1, 11, 8] ?_⟩
    delta encodeWith
    simp (disch := decide) [FieldsAgree, hw, h5, e.pop, e.stsOp]
  · split at hd
    · next h0 =>
      cases hd
      refine ⟨rfl, eq_of_fieldsAgree [16, 8] ?_⟩
      delta encodeWith
      simp (disch := decide) [FieldsAgree, hw, h0]
    · split at hd
      · next h0 =>
        cases hd
        refine ⟨rfl, eq_of_fieldsAgree [16, 8] ?_⟩
        delta encodeWith
        simp (disch := decide) [FieldsAgree, hw, h0]
      · cases hd

omit e in
theorem decodeType27_isWordOf {w : PmWord} {i : Instr} (hw : fld w 16 8 = 0x03#8) (hd : decodeType27 w = .ok i) :
    IsWordOf k w i := by
  cases hd
  split <;> next hbit =>
    refine ⟨rfl, eq_of_fieldsAgree [1, 1, 2, 12, 8] ?_⟩
    delta encodeWith
    simp (disch := decide) [FieldsAgree, putBit, hw, fld_one w 0, fld_one w 1, hbit]

theorem decodeType28And31_isWordOf {w : PmWord} {i : Instr} (hw : fld w 16 8 = 0x02#8)
    (hd : decodeType28And31 k w = .ok i) : IsWordOf k w i := by
  unfold decodeType28And31 at hd
  split at hd
  · next hbit =>
    split at hd
    · next h4 =>
      split at hd
      · next h0 =>
        cases hd
        refine ⟨rfl, eq_of_fieldsAgree [4, 11, 1, 8] ?_⟩
        delta encodeWith
        simp (disch := decide) [FieldsAgree, hw, h4, h0, fld_one w 15, hbit]
      · split at hd
        · next n hn =>
          cases hd
          refine ⟨rfl, eq_of_fieldsAgree [4, 11, 1, 8] ?_⟩
          delta encodeWith
          simp (disch := decide) [FieldsAgree, hw, h4, fld_one w 15, hbit, e.slowDiv _ _ hn]
        · cases hd
    · cases hd
  · next hbit =>
    split at hd
    · next h12 =>
      cases hd
      refine ⟨rfl, eq_of_fieldsAgree [4, 2, 2, 2, 2, 3, 1, 8] ?_⟩
      delta encodeWith
      simp (disch := decide) [FieldsAgree, hw, h12, fld_one w 15, hbit, e.pinOp, e.cond]
    · cases hd

theorem decodeType29_isWordOf {w : PmWord} {i : Instr} (hw : fld w 16 8 = 0x01#8) (hd : decodeType29 k w = .ok i) :
    IsWordOf k w i := by
  cases hd
  split <;> next hbit =>
    refine ⟨rfl, eq_of_fieldsAgree [4, 11, 1, 8] ?_⟩
    delta encodeWith
    simp (disch := decide) [FieldsAgree, hw, fld_one w 15, hbit, e.dreg]

omit e in
theorem nop_isWordOf {w : PmWord} (hw : fld w 16 8 = 0#8) (h0 : fld w 0 16 = 0#16) : IsWordOf k w .nop := by
  refine ⟨rfl, eq_of_fieldsAgree [16, 8] ?_⟩
  delta encodeWith
  simp (disch := decide) [FieldsAgree, hw, h0]

/-- The words whose leading byte alone selects the type; the byte 0 is left when no other is there. -/
theorem decodeLeadingByte_isWordOf {w : PmWord} {i : Instr} (hb : (fld w 16 8).toNat < 0x12)
    (hd : decodeLeadingByte k w = .ok i) : IsWordOf k w i := by
  have hbyte : ∀ b : Nat, b < 256 → (fld w 16 8).toNat = b → fld w 16 8 = BitVec.ofNat 8 b := fun b hlt h =>
    BitVec.eq_of_toNat_eq (by simpa [Nat.mod_eq_of_lt hlt] using h)
  unfold decodeLeadingByte at hd
  split at hd
  · next h => exact decodeType13_isWordOf e (hbyte _ (by decide) h) hd
  · next h => exact decodeType14_isWordOf e (hbyte _ (by decide) h) hd
  · next h => exact decodeType15_isWordOf e (hbyte _ (by decide) h) hd
  · next h => exact decodeType16_isWordOf e (hbyte _ (by decide) h) hd
  · next h => exact decodeType17_isWordOf e (hbyte _ (by decide) h) hd
  · next h => exact decodeType18_isWordOf e (hbyte _ (by decide) h) hd
  · next h => exact decodeType19_isWordOf e (hbyte _ (by decide) h) hd
  · next h => exact decodeType20_isWordOf e (hbyte _ (by decide) h) hd
  · next h => exact decodeType21_isWordOf e (hbyte _ (by decide) h) hd
  · next h =>
    cases hd
    exact unused_isWordOf (hbyte _ (by decide) h)
  · next h => exact decodeType23_isWordOf e (hbyte _ (by decide) h) hd
  · next h => exact decodeType24_isWordOf e (hbyte _ (by decide) h) hd
  · next h =>
    split at hd
    · next h0 =>
      cases hd
      exact satMr_isWordOf (hbyte _ (by decide) h) h0
    · cases hd
  · next h => exact decodeType26_isWordOf e (hbyte _ (by decide) h) hd
  · next h => exact decodeType27_isWordOf (hbyte _ (by decide) h) hd
  · next h => exact decodeType28And31_isWordOf e (hbyte _ (by decide) h) hd
  · next h => exact decodeType29_isWordOf e (hbyte _ (by decide) h) hd
  · have hzero : (fld w 16 8).toNat = 0 := by
      simp only [imp_false] at *
      omega
    split at hd
    · next h0 =>
      cases hd
      exact nop_isWordOf (hbyte _ (by decide) hzero) h0
    · cases hd

/-- R111, R161: the encoder undoes the decoder, by every complete set of code tables in which no operand has two
codes. -/
theorem decodeWith_isWordOf (hk : k.Complete) {w : PmWord} {i : Instr} (hd : decodeWith k w = .ok i) :
    IsWordOf k w i := by
  unfold decodeWith at hd
  obtain ⟨hw, hd⟩ | ⟨h1, hd⟩ := ite_eq_ok.mp hd
  · exact decodeType1_isWordOf e hw hd
  obtain ⟨hw, hd⟩ | ⟨h2, hd⟩ := ite_eq_ok.mp hd
  · cases hd
    exact writeDmImm_isWordOf e hw
  obtain ⟨hw, hd⟩ | ⟨h4, hd⟩ := ite_eq_ok.mp hd
  · exact decodeType4_isWordOf e hw hd
  obtain ⟨hw, hd⟩ | ⟨h3r, hd⟩ := ite_eq_ok.mp hd
  · exact readDm_isWordOf e hw hd
  obtain ⟨hw, hd⟩ | ⟨h3w, hd⟩ := ite_eq_ok.mp hd
  · exact writeDm_isWordOf e hw hd
  obtain ⟨hw, hd⟩ | ⟨h5, hd⟩ := ite_eq_ok.mp hd
  · exact decodeType5_isWordOf e hw hd
  obtain ⟨hw, hd⟩ | ⟨h6, hd⟩ := ite_eq_ok.mp hd
  · cases hd
    exact loadDreg_isWordOf e hw
  obtain ⟨hw, hd⟩ | ⟨h7, hd⟩ := ite_eq_ok.mp hd
  · exact loadReg_isWordOf e hw hd
  obtain ⟨hw, hd⟩ | ⟨h8, hd⟩ := ite_eq_ok.mp hd
  · exact decodeType8_isWordOf e hk hw hd
  obtain ⟨hw, hd⟩ | ⟨h9, hd⟩ := ite_eq_ok.mp hd
  · exact decodeType9_isWordOf e hw hd
  obtain ⟨hw, hd⟩ | ⟨h10, hd⟩ := ite_eq_ok.mp hd
  · cases hd
    exact jumpCall_isWordOf e hw
  obtain ⟨hw, hd⟩ | ⟨h11, hd⟩ := ite_eq_ok.mp hd
  · cases hd
    exact doUntil_isWordOf hw
  obtain ⟨hw, hd⟩ | ⟨h12, hd⟩ := ite_eq_ok.mp hd
  · exact decodeType12_isWordOf e hw hd
  have hb : (fld w 16 8).toNat < 0x12 := by
    simp only [fld_eq_iff, toNat_fld, Machine.Claims.field, BitVec.toNat_ofNat] at *
    omega
  exact decodeLeadingByte_isWordOf e hb hd

end

/-- Settles O2: the default tables are complete, and no operand has two codes there. -/
theorem encodeDecode : Obligations.EncodeDecode := fun _ _ hd =>
  decodeWith_isWordOf standardCodes_exact standardCodes_complete hd

end Sys2Proof
end

section
/-! The words that decode to no instruction (O3): what each type rejects, in the fields that the list of R160 reads, and
then the types by the leading byte (R161). -/

namespace Sys2Proof

open Machine.Claims

/-- The decoder answers no instruction. -/
def Rejected (d : Decoded) : Prop := ∀ i, d ≠ .ok i

@[simp] theorem not_rejected_ok (i : Instr) : ¬ Rejected (.ok i) := fun h => h i rfl

@[simp] theorem rejected_error (r : DecodeReject) : Rejected (.error r) := fun _ => nofun

theorem rejected_ite {p : Prop} [Decidable p] {a b : Decoded} :
    Rejected (if p then a else b) ↔ (p → Rejected a) ∧ (¬ p → Rejected b) := by
  split <;> simp [*]

/-- The two branches of a test can be settled apart. -/
theorem rejected_ite_iff {p q : Prop} [Decidable p] {a b : Decoded} (ha : p → (Rejected a ↔ q))
    (hb : ¬ p → (Rejected b ↔ q)) : Rejected (if p then a else b) ↔ q := by
  split
  · exact ha ‹_›
  · exact hb ‹_›

theorem rejected_ite_congr {p : Prop} [Decidable p] {a b : Decoded} {x y : Bool} (ha : Rejected a ↔ x = true)
    (hb : ¬ p → (Rejected b ↔ y = true)) : Rejected (if p then a else b) ↔ (if p then x else y) = true := by
  split
  · exact ha
  · exact hb ‹_›

@[simp] theorem rejected_acceptOr (r : DecodeReject) (o : Option Instr) : Rejected (acceptOr r o) ↔ o = none := by
  cases o <;> simp [acceptOr]

@[simp] theorem rejected_acceptWellFormed (i : Instr) : Rejected (acceptWellFormed i) ↔ i.wellFormed = false := by
  simp [acceptWellFormed, rejected_ite]

@[simp] theorem rejected_noComputation (w : PmWord) (i : Instr) :
    Rejected (noComputation w i) ↔ field w 18 1 ≠ 0 ∨ field w 8 5 ≠ 0 := by
  simp only [noComputation, rejected_ite, fld_eq_iff]
  simp
  tauto

/-! Bits and codes as the numbers that the list reads. -/

theorem bit_eq_true_iff (w : PmWord) (n : Nat) : bit w n = true ↔ field w n 1 ≠ 0 := by
  have h : field w n 1 < 2 := Nat.mod_lt _ (by decide)
  simp only [bit, beq_iff_eq, fld_eq_iff, BitVec.toNat_ofNat]
  omega

/-! What the default tables leave without an entry. -/

theorem shiftXopOf_eq_none (b : BitVec 3) : shiftXopOf standardCodes b = none ↔ b.toNat = 1 := by
  revert b; decide

theorem boOf_eq_none (b : BitVec 2) : boOf standardCodes b = none ↔ b.toNat % 2 = 0 := by
  revert b; decide

theorem divsYopOf_eq_none (b : BitVec 2) : divsYopOf standardCodes b = none ↔ b.toNat = 0 ∨ b.toNat = 3 := by
  revert b; decide

theorem slowDivOf_eq_none (b : BitVec 4) :
    slowDivOf standardCodes b = none ↔ b.toNat ≠ 1 ∧ b.toNat ≠ 2 ∧ b.toNat ≠ 4 ∧ b.toNat ≠ 8 := by
  revert b; decide

theorem regOf_eq_none (rgp : BitVec 2) (reg : BitVec 4) :
    regOf standardCodes rgp reg = none ↔ noReg rgp.toNat reg.toNat = true := by
  revert rgp reg; decide

/-- No register with the property: the pair names none, or one that has it not. -/
theorem noDest_iff (rgp : BitVec 2) (reg : BitVec 4) :
    noDest rgp.toNat reg.toNat = true ↔ ∀ r ∈ regOf standardCodes rgp reg, r.isDest = false := by
  revert rgp reg; decide

theorem noSource_iff (rgp : BitVec 2) (reg : BitVec 4) :
    noSource rgp.toNat reg.toNat = true ↔ ∀ r ∈ regOf standardCodes rgp reg, r.isSource = false := by
  revert rgp reg; decide

theorem noLoadReg_iff (rgp : BitVec 2) (reg : BitVec 4) :
    (rgp.toNat == 0 || noDest rgp.toNat reg.toNat) = true ↔
      ∀ r ∈ regOf standardCodes rgp reg, (r.isDest && !r.isDreg) = false := by
  revert rgp reg; decide

theorem noTopReg_iff (rgp : BitVec 2) (reg : BitVec 4) :
    (rgp.toNat == 3 || noReg rgp.toNat reg.toNat) = true ↔
      ∀ r ∈ regOf standardCodes rgp reg, r.isTopReg = false := by
  revert rgp reg; decide

theorem rejected_decodeWithReg (rgp : BitVec 2) (reg : BitVec 4) (mk : Reg → Instr) :
    Rejected (decodeWithReg standardCodes rgp reg mk) ↔
      ∀ r ∈ regOf standardCodes rgp reg, (mk r).wellFormed = false := by
  unfold decodeWithReg
  split <;> simp [*]

theorem rejected_readDm (a : Addr) (w : PmWord) :
    Rejected (decodeWithReg standardCodes (fld w 18 2) (fld w 0 4) (.readDm a)) ↔
      noDest (field w 18 2) (field w 0 4) = true := by
  rw [← toNat_fld, ← toNat_fld, noDest_iff]
  exact rejected_decodeWithReg ..

theorem rejected_writeDm (a : Addr) (w : PmWord) :
    Rejected (decodeWithReg standardCodes (fld w 18 2) (fld w 0 4) (.writeDm a)) ↔
      noSource (field w 18 2) (field w 0 4) = true := by
  rw [← toNat_fld, ← toNat_fld, noSource_iff]
  exact rejected_decodeWithReg ..

theorem rejected_loadReg (v : BitVec 14) (w : PmWord) :
    Rejected (decodeWithReg standardCodes (fld w 18 2) (fld w 0 4) (.loadReg v)) ↔
      (field w 18 2 == 0 || noDest (field w 18 2) (field w 0 4)) = true := by
  rw [← toNat_fld, ← toNat_fld, noLoadReg_iff]
  exact rejected_decodeWithReg ..

theorem rejected_topReg (rgp : BitVec 2) (reg : BitVec 4) {mk : Reg → Instr}
    (hmk : ∀ r, (mk r).wellFormed = r.isTopReg) :
    Rejected (decodeWithReg standardCodes rgp reg mk) ↔ (rgp.toNat == 3 || noReg rgp.toNat reg.toNat) = true := by
  simp only [rejected_decodeWithReg, hmk, noTopReg_iff]

theorem rejected_decodeShift (w : PmWord) (mk : ShiftFn → ShiftXop → Instr) :
    Rejected (decodeShift standardCodes w mk) ↔ field w 8 3 = 1 := by
  rw [← toNat_fld, ← shiftXopOf_eq_none]
  unfold decodeShift
  split <;> simp [*]

theorem aluMacOf_eq_none_iff (k : Codes) (w : PmWord) : aluMacOf k w = none ↔ field w 13 5 = 0 := by
  rw [aluMacOf_eq_none, fld_eq_iff, fld_eq_iff]
  simp only [field, BitVec.toNat_ofNat]
  omega

/-! The types with an ALU or MAC clause: beside a computation every word of theirs is one of an instruction. -/

theorem rejected_decodeType1 (w : PmWord) :
    Rejected (decodeType1 standardCodes w) ↔ (field w 13 5 == 0 && field w 8 5 != 0) = true := by
  have hnone := aluMacOf_eq_none_iff standardCodes w
  unfold decodeType1
  split <;> simp_all [rejected_ite, fld_eq_iff]

theorem rejected_decodeType4 (w : PmWord) : Rejected (decodeType4 standardCodes w) ↔ strayOperand w = true := by
  have hnone := aluMacOf_eq_none_iff standardCodes w
  unfold decodeType4 strayOperand
  split <;> simp_all [rejected_ite]

theorem rejected_decodeType5 (w : PmWord) : Rejected (decodeType5 standardCodes w) ↔ strayOperand w = true := by
  have hnone := aluMacOf_eq_none_iff standardCodes w
  unfold decodeType5 strayOperand
  split <;> simp_all [rejected_ite]

theorem rejected_decodeType8 (w : PmWord) : Rejected (decodeType8 standardCodes w) ↔ strayOperand w = true := by
  have hnone := aluMacOf_eq_none_iff standardCodes w
  unfold decodeType8 strayOperand
  split <;> simp_all [rejected_ite]

/-! Type 9 (R120): the constant forms need a BO, the squaring forms one of nine functions (R242). -/

theorem macSqrInstr_eq_none (f : MacFn) (z : Dest) (x : MacXop) (c : Cond) :
    macSqrInstr f z x c = none ↔ f.fmt = .su ∨ f.fmt = .us := by
  obtain ⟨op, fmt⟩ := f
  cases op <;> cases fmt <;> simp [macSqrInstr]

theorem noSquare_iff {b : BitVec 4} {f : MacFn} (h : macFnOf b = some f) :
    (f.fmt = .su ∨ f.fmt = .us) ↔ [5, 6, 9, 10, 13, 14].contains b.toNat = true := by
  have hall : ∀ b, ∀ f ∈ macFnOf b, (f.fmt = .su ∨ f.fmt = .us) ↔ [5, 6, 9, 10, 13, 14].contains b.toNat = true := by
    decide
  exact hall b f h

theorem strayCompute_alu {w : PmWord} (hbit : bit w 17 = true) :
    strayCompute w = (field w 4 4 != 0 && field w 4 2 % 2 == 0) := by
  have hamf : 16 ≤ field w 13 5 := by
    rw [bit_eq_true_iff] at hbit
    simp only [field] at *
    omega
  have hbo : field w 4 1 = field w 4 2 % 2 := by simp only [field]; omega
  have hcompute : field w 13 5 ≠ 0 := by omega
  simp [strayCompute, hamf, hbo, hcompute]

theorem strayCompute_mac {w : PmWord} (hbit : ¬ bit w 17 = true) :
    strayCompute w = (field w 13 4 == 0 || (field w 4 4 != 0 && (field w 4 4 != 1 || field w 11 2 != 0 ||
      [5, 6, 9, 10, 13, 14].contains (field w 13 4)))) := by
  have hamf : field w 13 5 = field w 13 4 := by
    rw [bit_eq_true_iff] at hbit
    simp only [field] at *
    omega
  have hlt : ¬ 16 ≤ field w 13 4 := by simp only [field]; omega
  simp [strayCompute, hamf, hlt]

theorem rejected_decodeType9 (w : PmWord) : Rejected (decodeType9 standardCodes w) ↔ strayCompute w = true := by
  unfold decodeType9
  refine rejected_ite_iff (fun hbit => ?_) fun hbit => ?_
  · have hbo := boOf_eq_none (fld w 4 2)
    rw [toNat_fld] at hbo
    rw [strayCompute_alu hbit, rejected_ite, fld_eq_iff]
    split <;> simp_all
  · have hmac := macFnOf_eq_none_iff (fld w 13 4)
    rw [fld_eq_iff] at hmac
    rw [strayCompute_mac hbit]
    split
    · simp_all
    · next f hf =>
      have hsqr := noSquare_iff hf
      rw [toNat_fld] at hsqr
      have hcompute : field w 13 4 ≠ 0 := fun h => by simp [hmac.mpr h] at hf
      refine rejected_ite_iff (fun h4 => ?_) fun h4 => ?_
      · simp [hcompute, (fld_eq_iff ..).mp h4]
      refine rejected_ite_iff (fun hfix => ?_) fun hfix => ?_
      · obtain ⟨h4, h11⟩ := hfix
        rw [rejected_acceptOr, macSqrInstr_eq_none, hsqr]
        simp [hcompute, (fld_eq_iff ..).mp h4, (fld_eq_iff ..).mp h11]
      · have hcode : field w 4 4 ≠ 0 := fun h => h4 ((fld_eq_iff ..).mpr h)
        have hstray : field w 4 4 ≠ 1 ∨ field w 11 2 ≠ 0 := by simpa [fld_eq_iff, imp_iff_not_or] using hfix
        rcases hstray with h | h <;> simp [hcode, h]

/-! The types whose leading byte is fixed. -/

theorem rejected_decodeType12 (w : PmWord) : Rejected (decodeType12 standardCodes w) ↔ (field w 8 3 == 1) = true := by
  simp [decodeType12, rejected_decodeShift]

theorem rejected_decodeType13 (w : PmWord) : Rejected (decodeType13 standardCodes w) ↔ (field w 8 3 == 1) = true := by
  simp [decodeType13, rejected_decodeShift]

theorem rejected_decodeType14 (w : PmWord) :
    Rejected (decodeType14 standardCodes w) ↔ (field w 15 1 != 0 || field w 8 3 == 1) = true := by
  simp [decodeType14, rejected_ite, rejected_decodeShift, bit_eq_true_iff, imp_iff_not_or]

/-- Only LSHIFT and ASHIFT have an immediate form: SF below 1000 (R274). -/
theorem shiftImmInstr_eq_none (f : ShiftFn) (x : ShiftXop) (e : BitVec 8) :
    shiftImmInstr f x e = none ↔ 8 ≤ (shiftFnCode f).toNat := by
  rcases f with ⟨_ | _, _ | _⟩ | ⟨_ | _, _ | _⟩ | ⟨_ | _, _ | _⟩ | _ | _ | _ | _ <;> simp [shiftImmInstr, shiftFnCode]

theorem rejected_decodeType15 (w : PmWord) :
    Rejected (decodeType15 standardCodes w) ↔ (field w 15 1 != 0 || field w 14 1 != 0 || field w 8 3 == 1) = true := by
  have hxop := shiftXopOf_eq_none (fld w 8 3)
  rw [toNat_fld] at hxop
  have hfn : 8 ≤ field w 11 4 ↔ field w 14 1 ≠ 0 := by simp only [field]; omega
  unfold decodeType15
  rw [rejected_ite, bit_eq_true_iff]
  split <;> simp_all [shiftImmInstr_eq_none, toNat_fld, imp_iff_not_or]

theorem rejected_decodeType16 (w : PmWord) :
    Rejected (decodeType16 standardCodes w) ↔ (field w 15 1 != 0 || field w 4 4 != 0 || field w 8 3 == 1) = true := by
  simp [decodeType16, rejected_ite, rejected_decodeShift, fld_eq_iff, imp_iff_not_or]

theorem moveReg_wellFormed_eq_false (d r : Reg) :
    (Instr.moveReg d r).wellFormed = false ↔ d.isDest = false ∨ r.isSource = false :=
  Bool.and_eq_false_iff

theorem rejected_decodeType17 (w : PmWord) : Rejected (decodeType17 standardCodes w) ↔ strayMove w = true := by
  unfold decodeType17 strayMove
  refine rejected_ite_iff (fun h12 => ?_) fun h12 => ?_
  · have h12 : field w 12 4 = 0 := (fld_eq_iff ..).mp h12
    refine rejected_ite_iff (fun hsrc => ?_) fun hsrc => rejected_ite_iff (fun hdst => ?_) fun hdst => ?_
    · obtain ⟨h8, h0⟩ : field w 8 2 = 3 ∧ field w 0 4 = 15 := by simpa [fld_eq_iff] using hsrc
      rw [rejected_topReg _ _ fun _ => rfl]
      by_cases h10 : field w 10 2 = 3 <;> simp [toNat_fld, h12, h8, h0, h10]
    · obtain ⟨h10, h4⟩ : field w 10 2 = 3 ∧ field w 4 4 = 15 := by simpa [fld_eq_iff] using hdst
      rw [rejected_topReg _ _ fun _ => rfl]
      simp [toNat_fld, h12, h10, h4]
    · have hsrc : ¬ (field w 8 2 = 3 ∧ field w 0 4 = 15) := by simpa [fld_eq_iff] using hsrc
      have hdst : ¬ (field w 10 2 = 3 ∧ field w 4 4 = 15) := by simpa [fld_eq_iff] using hdst
      have hd := noDest_iff (fld w 10 2) (fld w 4 4)
      have hr := noSource_iff (fld w 8 2) (fld w 0 4)
      simp only [toNat_fld] at hd hr
      simp only [h12, hsrc, hdst, bne_self_eq_false, Bool.false_or, Bool.and_eq_true, beq_iff_eq, if_false,
        Bool.or_eq_true, hd, hr]
      cases regOf standardCodes (fld w 10 2) (fld w 4 4) <;> cases regOf standardCodes (fld w 8 2) (fld w 0 4) <;>
        simp [moveReg_wellFormed_eq_false]
  · have h12 : field w 12 4 ≠ 0 := by simpa [fld_eq_iff] using h12
    simp [h12]

theorem rejected_decodeType18 (w : PmWord) :
    Rejected (decodeType18 standardCodes w) ↔ (field w 0 2 != 0) = true := by
  simp [decodeType18, rejected_ite, fld_eq_iff]

theorem rejected_decodeType19 (w : PmWord) :
    Rejected (decodeType19 standardCodes w) ↔ (field w 8 8 != 0 || field w 5 1 != 0) = true := by
  simp [decodeType19, rejected_ite, fld_eq_iff, imp_iff_not_or]

theorem rejected_decodeType20 (w : PmWord) :
    Rejected (decodeType20 standardCodes w) ↔ (field w 5 11 != 0) = true := by
  simp [decodeType20, rejected_ite, fld_eq_iff]

theorem rejected_decodeType21 (w : PmWord) :
    Rejected (decodeType21 standardCodes w) ↔ (field w 5 11 != 0) = true := by
  simp [decodeType21, rejected_ite, fld_eq_iff]

theorem rejected_decodeType23 (w : PmWord) :
    Rejected (decodeType23 standardCodes w) ↔ (field w 11 5 != 2 || field w 0 8 != 0) = true := by
  simp [decodeType23, rejected_ite, fld_eq_iff, imp_iff_not_or]

theorem rejected_decodeType24 (w : PmWord) :
    Rejected (decodeType24 standardCodes w) ↔
      (field w 13 3 != 0 || field w 0 8 != 0 || field w 11 2 == 0 || field w 11 2 == 3) = true := by
  have hyop := divsYopOf_eq_none (fld w 11 2)
  rw [toNat_fld] at hyop
  unfold decodeType24
  rw [rejected_ite, fld_eq_iff, fld_eq_iff]
  split <;> simp_all [imp_iff_not_or]
  all_goals tauto

theorem rejected_decodeType26 {w : PmWord} (hw : field w 16 8 = 0x04) :
    Rejected (decodeType26 standardCodes w) ↔
      (field w 7 9 != 0 ||
        (if field w 6 1 == 1 then w != 0x040040#24 && w != 0x040060#24 else field w 5 1 == 1)) = true := by
  simp only [decodeType26, rejected_ite, not_rejected_ok, rejected_error, fld_eq_iff]
  by_cases h6 : field w 6 1 = 1 <;> simp [BitVec.toNat_eq, h6]
  all_goals
    simp only [field] at *
    omega

theorem rejected_decodeType28And31 (w : PmWord) :
    Rejected (decodeType28And31 standardCodes w) ↔
      (if field w 15 1 == 0 then field w 12 3 != 0
       else field w 4 11 != 0 || !([0, 1, 2, 4, 8].contains (field w 0 4))) = true := by
  have hdv := slowDivOf_eq_none (fld w 0 4)
  rw [toNat_fld] at hdv
  unfold decodeType28And31
  refine rejected_ite_iff (fun hbit => ?_) fun hbit => ?_
  · have hpin := (bit_eq_true_iff w 15).mp hbit
    refine rejected_ite_iff (fun h4 => ?_) fun h4 => ?_
    · have h4 : field w 4 11 = 0 := (fld_eq_iff ..).mp h4
      rw [rejected_ite, fld_eq_iff]
      split <;> simp_all
    · have h4 : field w 4 11 ≠ 0 := by simpa [fld_eq_iff] using h4
      simp [hpin, h4]
  · have hpin : field w 15 1 = 0 := by simpa using (bit_eq_true_iff w 15).not.mp hbit
    simp [hpin, rejected_ite, fld_eq_iff]

/-! The list of R160 by the leading byte, as the decoder tests it (R161). -/

/-- From the leading byte 0x14 on the list goes by ranges. -/
theorem isNoInstruction_of_ge {w : PmWord} (hb : 0x14 ≤ field w 16 8) :
    isNoInstruction w =
      if field w 16 8 < 0x20 then false
      else if field w 16 8 < 0x28 then strayCompute w
      else if field w 16 8 < 0x30 then strayOperand w
      else if field w 16 8 < 0x40 then field w 18 2 == 0 || noDest (field w 18 2) (field w 0 4)
      else if field w 16 8 < 0x50 then false
      else if field w 16 8 < 0x80 then strayOperand w
      else if field w 16 8 < 0x90 then noDest (field w 18 2) (field w 0 4)
      else if field w 16 8 < 0xA0 then noSource (field w 18 2) (field w 0 4)
      else if field w 16 8 < 0xC0 then false
      else field w 13 5 == 0 && field w 8 5 != 0 := by
  unfold isNoInstruction
  split
  case h_21 => rfl
  all_goals omega

theorem eq_ite {p : Prop} [Decidable p] {x a b : Bool} (ha : p → x = a) (hb : ¬ p → x = b) :
    x = if p then a else b := by
  split
  · exact ha ‹_›
  · exact hb ‹_›

/-- The list in the order of the decoder's tests of the high bits, down to the leading bytes below 0x14. -/
theorem isNoInstruction_eq_tests (w : PmWord) :
    isNoInstruction w =
      if fld w 22 2 = 3#2 then field w 13 5 == 0 && field w 8 5 != 0
      else if fld w 21 3 = 5#3 then false
      else if fld w 21 3 = 3#3 then strayOperand w
      else if fld w 20 4 = 8#4 then noDest (field w 18 2) (field w 0 4)
      else if fld w 20 4 = 9#4 then noSource (field w 18 2) (field w 0 4)
      else if fld w 20 4 = 5#4 then strayOperand w
      else if fld w 20 4 = 4#4 then false
      else if fld w 20 4 = 3#4 then field w 18 2 == 0 || noDest (field w 18 2) (field w 0 4)
      else if fld w 19 5 = 5#5 then strayOperand w
      else if fld w 19 5 = 4#5 then strayCompute w
      else if fld w 19 5 = 3#5 then false
      else if fld w 18 6 = 5#6 then false
      else isNoInstruction w := by
  have h22 : field w 22 2 = field w 16 8 / 64 := by simp only [field]; omega
  have h21 : field w 21 3 = field w 16 8 / 32 := by simp only [field]; omega
  have h20 : field w 20 4 = field w 16 8 / 16 := by simp only [field]; omega
  have h19 : field w 19 5 = field w 16 8 / 8 := by simp only [field]; omega
  have h18 : field w 18 6 = field w 16 8 / 4 := by simp only [field]; omega
  simp only [fld_eq_iff, h22, h21, h20, h19, h18, BitVec.toNat_ofNat]
  refine eq_ite (fun h => ?_) fun _ => eq_ite (fun h => ?_) fun _ => eq_ite (fun h => ?_) fun _ =>
    eq_ite (fun h => ?_) fun _ => eq_ite (fun h => ?_) fun _ => eq_ite (fun h => ?_) fun _ =>
    eq_ite (fun h => ?_) fun _ => eq_ite (fun h => ?_) fun _ => eq_ite (fun h => ?_) fun _ =>
    eq_ite (fun h => ?_) fun _ => eq_ite (fun h => ?_) fun _ => eq_ite (fun h => ?_) fun _ => rfl
  all_goals
    rw [isNoInstruction_of_ge (by omega)]
    simp (disch := omega) only [if_pos, if_neg]

/-- The bytes below 0x12; what is left of them after the decoder's cases is 0x00, where NOP alone stands. -/
theorem rejected_decodeLeadingByte {w : PmWord} (hb : field w 16 8 < 0x12) :
    Rejected (decodeLeadingByte standardCodes w) ↔ isNoInstruction w = true := by
  unfold decodeLeadingByte isNoInstruction
  rw [toNat_fld]
  split
  · next h => simpa only [h] using rejected_decodeType13 w
  · next h => simpa only [h] using rejected_decodeType14 w
  · next h => simpa only [h] using rejected_decodeType15 w
  · next h => simpa only [h] using rejected_decodeType16 w
  · next h => simpa only [h] using rejected_decodeType17 w
  · next h => simpa only [h] using rejected_decodeType18 w
  · next h => simpa only [h] using rejected_decodeType19 w
  · next h => simpa only [h] using rejected_decodeType20 w
  · next h => simpa only [h] using rejected_decodeType21 w
  · next h => simp [h]
  · next h => simpa only [h] using rejected_decodeType23 w
  · next h => simpa only [h] using rejected_decodeType24 w
  · next h => simp [h, rejected_ite, fld_eq_iff]
  · next h => simpa only [h] using rejected_decodeType26 h
  · next h => simp [h, decodeType27]
  · next h => simpa only [h] using rejected_decodeType28And31 w
  · next h => simp [h, decodeType29]
  · have hzero : field w 16 8 = 0 := by
      simp only [imp_false] at *
      omega
    have hnop : fld w 0 16 = 0#16 ↔ w = 0#24 := by
      rw [fld_eq_iff, BitVec.toNat_eq]
      simp only [field, BitVec.toNat_ofNat] at *
      omega
    simp [hzero, rejected_ite, hnop]

/-- Settles O3: the decoder's tests one after the other, each type by what it rejects. -/
theorem undefinedWords : Obligations.UndefinedWords := by
  intro w
  change Rejected (decode w) ↔ isNoInstruction w = true
  unfold decode decodeWith
  rw [isNoInstruction_eq_tests]
  refine rejected_ite_congr (rejected_decodeType1 w) fun h1 => ?_
  refine rejected_ite_congr (by simp) fun h2 => ?_
  refine rejected_ite_congr (rejected_decodeType4 w) fun h4 => ?_
  refine rejected_ite_congr (rejected_readDm _ w) fun h3r => ?_
  refine rejected_ite_congr (rejected_writeDm _ w) fun h3w => ?_
  refine rejected_ite_congr (rejected_decodeType5 w) fun h5 => ?_
  refine rejected_ite_congr (by simp) fun h6 => ?_
  refine rejected_ite_congr (rejected_loadReg _ w) fun h7 => ?_
  refine rejected_ite_congr (rejected_decodeType8 w) fun h8 => ?_
  refine rejected_ite_congr (rejected_decodeType9 w) fun h9 => ?_
  refine rejected_ite_congr (by simp) fun h10 => ?_
  refine rejected_ite_congr (by simp) fun h11 => ?_
  refine rejected_ite_iff (fun h12 => ?_) fun h12 => rejected_decodeLeadingByte ?_
  · have hb : field w 16 8 = 0x12 ∨ field w 16 8 = 0x13 := by
      simp only [fld_eq_iff, field, BitVec.toNat_ofNat] at *
      omega
    rw [rejected_decodeType12]
    rcases hb with h | h <;> simp only [isNoInstruction, h]
  · simp only [fld_eq_iff, field, BitVec.toNat_ofNat] at *
    omega

end Sys2Proof
end

section
/-! Words that are no instruction stop the machine (O5). -/

namespace Sys2Proof.Machine

open Claims

/-- The word of the row (unused) (R133). -/
theorem encodeWith_unused (k : Codes) (u : BitVec 16) :
    encodeWith k (.unused u) = BitVec.ofNat 24 (0x080000 + u.toNat) := by
  have hu : u.toNat < 65536 := u.isLt
  have hhigh : fld (BitVec.ofNat 24 (0x080000 + u.toNat)) 16 8 = 0x08#8 := by
    rw [fld_eq_iff]
    simp only [field, BitVec.toNat_ofNat]
    omega
  have hlow : fld (BitVec.ofNat 24 (0x080000 + u.toNat)) 0 16 = u := by
    rw [fld_eq_iff]
    simp only [field, BitVec.toNat_ofNat]
    omega
  apply eq_of_fieldsAgree [16, 8]
  delta encodeWith
  simp (disch := decide) [FieldsAgree, hhigh, hlow]

theorem exec_unused (u : BitVec 16) (s : State) :
    exec (.unused u) s = .fault (.unusedEncoding (encodeWith s.cfg.codes (.unused u))) := rfl

/-- A step after whose dispatch the processor fetches a word that is refused stops with the fault of that word. -/
theorem step_of_refused {s t : State} {w : PmWord} {r : DecodeReject} (hd : dispatchInterrupt s = .ok t)
    (hf : Fetches t w) (hr : decodeWith t.cfg.codes w = .error r) : step s = .fault (.unusedEncoding w) := by
  simp [step, hd, hf.1, runNext, fetch_of_fetches t w hf, hr]

/-- R335: with no interrupt to take, dispatch changes neither the word that is fetched nor the code tables. -/
theorem step_of_rejected {s : State} {w : PmWord} (hn : NoInterrupt s) (hf : Fetches s w)
    (hr : Rejected (decodeWith s.cfg.codes w)) : step s = .fault (.unusedEncoding w) := by
  have hd := dispatchInterrupt_none s _ hn ((latchesNow_iff s _).mpr rfl)
  cases hw : decodeWith s.cfg.codes w with
  | ok i => exact absurd hw (hr i)
  | error r => exact step_of_refused hd hf hw

/-- Settles O5: the list of R160 is what the default tables reject (O3). -/
theorem unusedEncodingFaults : Obligations.UnusedEncodingFaults := by
  refine ⟨fun u s => ?_, fun s w hn hf hw => step_of_rejected hn hf ?_⟩
  · rw [exec_unused, encodeWith_unused]
  · rcases hw with hrejected | ⟨hcodes, hlist⟩
    · exact hrejected
    · rw [hcodes]
      exact (undefinedWords w).mpr hlist

end Sys2Proof.Machine
end

section
/-! A conditional instruction whose condition is false (O7): it leaves the state after the condition, whatever its
operation. -/

namespace Sys2Proof.Machine

open Claims

/-- Evaluating NOT CE subtracts 1 from CNTR modulo 2^14, and no other condition changes anything (R48). -/
theorem afterCond_eq (c : Cond) (s : State) :
    afterCond c s =
      if c = .notCe then
        { s with seq := { s.seq with cntr := BitVec.ofNat 14 (s.seq.cntr.toNat + 16383) } }
      else s := by
  have hdown : cntrDown s = BitVec.ofNat 14 (s.seq.cntr.toNat + 16383) := by
    simp only [cntrDown]
    bv_omega
  rw [← hdown]
  rfl

/-- A conditional operation whose condition is false answers the state after the condition. -/
theorem answer_ifCond_false {c : Cond} {s : State} (op : State → Result State) (h : condHolds c s = false) :
    answer (ifCond c op s) = .next (afterCond c s) := by
  rw [ifCond_false op h, answer_ok]

/-- So does one that only the members with `hasExt` have, on such a member. -/
theorem needsExt_ifCond_false {c : Cond} {s : State} (w : PmWord) (op : State → Result State)
    (hm : s.cfg.member.hasExt = true) (h : condHolds c s = false) :
    needsExt w (fun u => answer (ifCond c op u)) s = .next (afterCond c s) := by
  rw [needsExt_of _ hm, answer_ifCond_false op h]

/-- Every instruction with a COND field is one conditional operation, behind the test for the options it needs. -/
theorem exec_of_condition_false {i : Instr} {c : Cond} {s : State} (hc : conditionOf i = some c)
    (hm : memberHas s.cfg.member i = true) (h : condHolds c s = false) : exec i s = .next (afterCond c s) := by
  cases i with
  | aluPassY | aluIncY | aluAddC | aluAdd | aluNotY | aluNegY | aluSubXYBorrow | aluSubXY | aluDecY | aluSubYX
  | aluSubYXBorrow | aluNotX | aluAnd | aluOr | aluXor | aluAbs
  | macMulRnd | macMulSs | macMulSu | macMulUs | macMulUu | macAddRnd | macAddSs | macAddSu | macAddUs | macAddUu
  | macSubRnd | macSubSs | macSubSu | macSubUs | macSubUu
  | lshiftHi | lshiftHiOr | lshiftLo | lshiftLoOr | ashiftHi | ashiftHiOr | ashiftLo | ashiftLoOr | normHi | normHiOr
  | normLo | normLoOr | expHi | expHix | expLo | expadj
  | jump | call | jumpInd | callInd | rts | rti =>
    cases hc
    exact answer_ifCond_false _ h
  | aluAddK | aluAddKC | aluSubXK | aluSubXKBorrow | aluSubKX | aluSubKXBorrow | aluTstbit | aluClrbit | aluSetbit
  | aluOrNotBit | aluTglbit | aluXorNotBit | aluNotK | aluNegK | aluNotXK | aluAbsK
  | aluPassK | aluPassKInc | aluPassKDec
  | macSqrMulRnd | macSqrMulSs | macSqrMulUu | macSqrAddRnd | macSqrAddSs | macSqrAddUu | macSqrSubRnd | macSqrSubSs
  | macSqrSubUu =>
    cases hc
    exact needsExt_ifCond_false _ _ hm h
  | flagOut =>
    cases hc
    rw [exec_flagOut hm, answer_ifCond_false _ h]
  | _ => cases hc

/-- Settles O7: a false condition leaves the state after the condition, in which at most CNTR differs. -/
theorem falseConditionIsNop : Obligations.FalseConditionIsNop := by
  intro i c s hc hm h
  rw [exec_of_condition_false hc hm h, afterCond_eq]

end Sys2Proof.Machine
end

section
/-! The result and the flags of the ALU functions in exact integers (R170 to R172), and what an ALU step makes of
them. -/

namespace Sys2Proof.Machine

open Claims

/-- The output of an exact result: the integer modulo 2^16, and whether it overflows. -/
def exactOut (e : Int) (carry : Bool) : AluOut := { r := BitVec.ofInt 16 e, ov := overflows16 e, carry := carry }

theorem overflows16_toInt (r : Word) : overflows16 r.toInt = false := by
  have hlow := BitVec.le_toInt r
  have hhigh := BitVec.toInt_lt (x := r)
  simp only [overflows16, Bool.or_eq_false_iff, decide_eq_false_iff_not]
  omega

/-- A logic function has no overflow and no carry. -/
theorem aluLogic_eq (r : Word) : aluLogic r = exactOut r.toInt false := by
  simp [aluLogic, exactOut, overflows16_toInt]

/-- The 17-bit adder gives the exact sum of the signed operands. -/
theorem add17_eq_exactOut (a b : Word) (cin : Bool) :
    add17 a b cin =
      exactOut (a.toInt + b.toInt + cin.toNat) (decide (2 ^ 16 ≤ a.toNat + b.toNat + cin.toNat)) := by
  obtain ⟨hr, hcarry, hov⟩ := add17_eq a b cin
  have hsum : (add17 a b cin).r = BitVec.ofInt 16 (a.toInt + b.toInt + cin.toNat) := by
    apply BitVec.eq_of_toNat_eq
    rw [hr, BitVec.toNat_ofInt, BitVec.toInt_eq_toNat_cond, BitVec.toInt_eq_toNat_cond]
    split <;> split <;> omega
  cases hout : add17 a b cin
  rw [hout] at hsum hcarry hov
  simp only at hsum hcarry hov
  rw [hsum, hcarry, hov]
  rfl

/-- Adding a complement subtracts, with a carry where there is no borrow (R170). -/
theorem add17_not_eq_exactOut (a b : Word) (cin : Bool) :
    add17 a (~~~b) cin =
      exactOut (a.toInt - b.toInt + cin.toNat - 1) (decide (b.toNat + 1 ≤ a.toNat + cin.toNat)) := by
  have hb := b.isLt
  have hexact : a.toInt + (~~~b).toInt + cin.toNat = a.toInt - b.toInt + cin.toNat - 1 := by
    rw [toInt_not]
    omega
  have hborrow : 2 ^ 16 ≤ a.toNat + (~~~b).toNat + cin.toNat ↔ b.toNat + 1 ≤ a.toNat + cin.toNat := by
    rw [BitVec.toNat_not]
    omega
  rw [add17_eq_exactOut, hexact, decide_eq_decide.mpr hborrow]

/-- Adding 0xFFFF subtracts 1, with a carry where there is no borrow (R195). -/
theorem add17_minusOne_eq_exactOut (y : Word) :
    add17 y 0xFFFF#16 false = exactOut (y.toInt - 1) (decide (1 ≤ y.toNat)) := by
  simpa using add17_not_eq_exactOut y 0 false

/-- The absolute value overflows for the most negative number alone (R193). -/
theorem aluFn_absX_eq_exactOut (x y : Word) (c : Bool) : aluFn .absX x y c = exactOut x.toInt.natAbs false := by
  have hx := x.isLt
  have hov : (x == 0x8000#16) = overflows16 x.toInt.natAbs := by
    rw [Bool.eq_iff_iff]
    simp only [overflows16, beq_iff_eq, Bool.or_eq_true, decide_eq_true_eq, ← BitVec.toNat_inj, BitVec.toNat_ofNat,
      BitVec.toInt_eq_toNat_cond]
    split <;> omega
  have hr : (if x.msb then -x else x) = BitVec.ofInt 16 x.toInt.natAbs := by
    apply BitVec.eq_of_toNat_eq
    rw [apply_ite BitVec.toNat, BitVec.toNat_neg, BitVec.toNat_ofInt, BitVec.toInt_eq_toNat_cond, BitVec.msb_eq_decide]
    simp only [decide_eq_true_eq]
    split <;> split <;> omega
  rw [aluFn, hov, hr]
  rfl

/-- An ALU function computes its exact integer, with the carry of its unsigned sum (R170). -/
theorem aluFn_eq_exactOut (f : AluFn) (x y : Word) (c : Bool) :
    aluFn f x y c = exactOut (aluExact f x y c) (aluCarries f x y c) := by
  cases f with
  | passY | andXY | orXY | xorXY => exact aluLogic_eq _
  | notY | notX => rw [aluFn, aluLogic_eq, toInt_not]; rfl
  | absX => exact aluFn_absX_eq_exactOut x y c
  | addC => exact add17_eq_exactOut x y c
  | incY | add => simp [aluFn, add17_eq_exactOut, aluExact, aluCarries]
  | subXYBorrow => exact add17_not_eq_exactOut x y c
  | subYXBorrow => exact add17_not_eq_exactOut y x c
  | negY | subXY | subYX => simp [aluFn, add17_not_eq_exactOut, aluExact, aluCarries]
  | decY => exact add17_minusOne_eq_exactOut y

theorem aluFn_r (f : AluFn) (x y : Word) (c : Bool) : (aluFn f x y c).r = aluWord f x y c := by
  rw [aluFn_eq_exactOut]; rfl

theorem aluFn_ov (f : AluFn) (x y : Word) (c : Bool) : (aluFn f x y c).ov = overflows16 (aluExact f x y c) := by
  rw [aluFn_eq_exactOut]; rfl

theorem aluFn_carry (f : AluFn) (x y : Word) (c : Bool) : (aluFn f x y c).carry = aluCarries f x y c := by
  rw [aluFn_eq_exactOut]; rfl

/-- A state with the ASTAT of an ALU function has the flags of its exact result (R171). -/
theorem aluStatus_of_astat {f : AluFn} {x y : Word} {s t : State}
    (h : t.astat = aluStatusOf f x s.astat (avLatch s) (aluFn f x y (flagAc s))) : AluStatus f x y s t := by
  have hbit : ∀ j, t.astat.getLsbD j =
      (aluStatusOf f x s.astat (avLatch s) (aluFn f x y (flagAc s))).getLsbD j := fun j => by rw [h]
  simp only [aluStatusOf_getLsbD, aluStatus_getLsbD, aluFn_r, aluFn_ov, aluFn_carry] at hbit
  have has : flagAs t = if f = .absX then x.msb else flagAs s := (hbit 4).trans (if_congr (and_iff_right rfl) rfl rfl)
  exact ⟨hbit 0, hbit 1, hbit 2, hbit 3, has, hbit 5, hbit 6, hbit 7⟩

/-- The model takes a draw in the one situation that U2 leaves open (R172). -/
theorem arDraws_aluFn (f : AluFn) (x y : Word) (s : State) :
    arDraws (aluFn f x y (flagAc s)) s = arIsDrawn f x y s := by
  simp [arDraws, arIsDrawn, aluFn_ov, Bool.and_assoc]

/-- A draw is between the plain result and full scale (U2). -/
theorem arValue_of_draws {o : AluOut} {s : State} (h : arDraws o s = true) :
    arValue o s = o.r ∨ arValue o s = satValue o.carry := by
  obtain ⟨hsat, hopen⟩ := Bool.and_eq_true_iff.mp h
  rw [arValue, if_pos hsat, if_pos hopen]
  split
  · exact .inr rfl
  · exact .inl rfl

/-- Without a draw AR saturates on an overflow under AR_SAT (R172). -/
theorem arValue_of_not_draws {o : AluOut} {s : State} (h : arDraws o s = false) :
    arValue o s = if arSat s && o.ov then satValue o.carry else o.r := by
  rw [arDraws] at h
  unfold arValue satAr
  cases hsat : arSat s with
  | false => rfl
  | true =>
    rw [hsat, Bool.true_and] at h
    rw [h]
    rfl

/-- An ALU step writes the result to AF or AR, and the flags (R173, R174). -/
theorem aluStep_effect (f : AluFn) (z : Dest) (x y : Word) (s : State) : AluEffect f z x y s (aluStep f z x y s) := by
  refine ⟨aluStatus_of_astat rfl, ?_⟩
  cases z with
  | feedback =>
    simp only [aluStep, writeAlu, setAstat_astat, aluFn_r]
  | result =>
    simp only [aluStep, writeAlu, arDraws_aluFn]
    cases hdrawn : arIsDrawn f x y s with
    | true =>
      have hvalue := arValue_of_draws ((arDraws_aluFn f x y s).trans hdrawn)
      rw [aluFn_r, aluFn_carry] at hvalue
      exact ⟨_, hvalue, rfl⟩
    | false =>
      have hvalue := arValue_of_not_draws ((arDraws_aluFn f x y s).trans hdrawn)
      rw [aluFn_r, aluFn_ov, aluFn_carry] at hvalue
      rw [hvalue]
      rfl

end Sys2Proof.Machine
end

section
/-! The ALU instructions (O9, O10, O12, O13): each form is one ALU step on its operands. -/

namespace Sys2Proof.Machine

open Claims

/-- A register form is the generic conditional ALU instruction (R174). -/
theorem exec_aluForm (f : AluFn) (z : Dest) (y : AluYop) (x : AluXop) (c : Cond) (s : State) :
    exec (aluForm f z y x c) s = aluCond f z y x c s := by
  cases f <;> rfl

/-- Where the condition holds, the ALU step reads its operands from the bank of the state before. -/
theorem aluCond_true (f : AluFn) (z : Dest) (y : AluYop) (x : AluXop) {c : Cond} {s : State}
    (h : condHolds c s = true) :
    aluCond f z y x c s =
      .next (aluStep f z (aluX x (activeBank s)) (aluY y (activeBank s)) (afterCond c s)) := by
  rw [aluCond, ifCond_true _ h, activeBank_afterCond, answer_ok]

/-- Settles O9: each form is the ALU step on the state after the condition. -/
theorem aluRegisterForms : Obligations.AluRegisterForms := by
  intro f z y x c s h
  rw [exec_aluForm, aluCond_true f z y x h]
  exact ⟨_, rfl, aluStep_effect f z _ _ _⟩

theorem aluConst_eq_constWord (n : BitVec 4) (inv : Bool) : aluConst n inv = constWord n inv := by
  revert n inv
  decide

/-- A constant form is the generic conditional ALU instruction with the constant as Y operand (R174, R175 to R187). -/
theorem exec_aluConstForm {f : AluFn} {z : Dest} {n : BitVec 4} {inv : Bool} {x : AluXop} {c : Cond} {i : Instr}
    (s : State) (h : aluConstForm f z n inv x c = some i) :
    exec i s = aluCondConst (encodeWith s.cfg.codes i) f z (constWord n inv) x c s := by
  rw [← aluConst_eq_constWord]
  cases f with
  | passY | incY | decY => cases h
  | addC | add | notY | negY | subXYBorrow | subXY | subYX | subYXBorrow | notX | absX =>
    cases h
    rfl
  | andXY | orXY | xorXY =>
    cases inv <;> cases h <;> rfl

theorem aluCondConst_true (w : PmWord) (f : AluFn) (z : Dest) (k : Word) (x : AluXop) {c : Cond} {s : State}
    (hm : s.cfg.member.hasExt = true) (h : condHolds c s = true) :
    aluCondConst w f z k x c s = .next (aluStep f z (aluX x (activeBank s)) k (afterCond c s)) := by
  rw [aluCondConst, needsExt_of _ hm, ifCond_true _ h, activeBank_afterCond, answer_ok]

/-- Settles O10: a constant form is the same ALU step with the constant as Y operand. -/
theorem aluConstantForms : Obligations.AluConstantForms := by
  intro f z n inv x c i s hi hm h
  rw [exec_aluConstForm s hi, aluCondConst_true _ f z _ x hm h]
  exact ⟨_, rfl, aluStep_effect f z _ _ _⟩

/-- Settles O12: NONE is the status of the ALU step without its result (R198). -/
theorem noneStatus : Obligations.NoneStatus := by
  intro f y x s
  refine ⟨fun hm => ?_, fun hm => ?_⟩
  · have hexec : exec (.noneAlu f y x) s =
        .next (aluStatusStep f (aluX x (activeBank s)) (aluY y (activeBank s)) s) := if_pos hm
    exact ⟨_, hexec, aluStatus_of_astat rfl, rfl⟩
  · show execNoneAlu f y x s = _
    rw [execNoneAlu, hm]
    rfl

/-! A comparison by subtraction (R47, R177). -/

/-- A 17-bit difference is negative when AN says so and it does not overflow, or the other way about. -/
theorem msb_xor_overflows16 {e : Int} (hlow : -65536 ≤ e) (hhigh : e < 65536) :
    ((BitVec.ofInt 16 e).msb ^^ overflows16 e) = decide (e < 0) := by
  have hmsb : (BitVec.ofInt 16 e).msb = decide (32768 ≤ e % 65536) := by
    rw [BitVec.msb_eq_decide, BitVec.toNat_ofInt, decide_eq_decide]
    omega
  have hover : overflows16 e = decide (e < -32768 ∨ 32768 ≤ e) := (Bool.decide_or _ _).symm
  rw [hmsb, hover, Bool.eq_iff_iff, Bool.xor_iff_ne, decide_eq_true_eq, ne_eq, decide_eq_decide]
  omega

theorem aluWord_subXY_eq_zero_iff (x y : Word) (c : Bool) : aluWord .subXY x y c = 0 ↔ x = y := by
  have hword : aluWord .subXY x y c = x - y := by
    apply BitVec.eq_of_toInt_eq
    rw [aluWord, aluExact, BitVec.toInt_ofInt, BitVec.toInt_sub]
  rw [hword]
  exact sub_eq_zero

/-- With AV_LATCH off the flags of a difference order its operands: AZ as equal, AN and AV as signed numbers, AC as
unsigned ones (R47, R171). -/
theorem aluStatus_subXY {x y : Word} {s t : State} (h : AluStatus .subXY x y s t) (hlatch : avLatch s = false) :
    flagAz t = decide (x.toInt = y.toInt) ∧ (flagAn t ^^ flagAv t) = decide (x.toInt < y.toInt) ∧
    flagAc t = decide (y.toNat ≤ x.toNat) := by
  obtain ⟨haz, han, hav, hac, -⟩ := h
  have hx := BitVec.le_toInt x
  have hx' := BitVec.toInt_lt (x := x)
  have hy := BitVec.le_toInt y
  have hy' := BitVec.toInt_lt (x := y)
  have hsign := msb_xor_overflows16 (e := x.toInt - y.toInt) (by omega) (by omega)
  refine ⟨?_, ?_, hac⟩
  · rw [haz, decide_eq_decide, aluWord_subXY_eq_zero_iff, BitVec.toInt_inj]
  · rw [han, hav, hlatch, Bool.false_and, Bool.false_or]
    exact hsign.trans (decide_eq_decide.mpr sub_neg)

/-- Flags that order two numbers answer the six comparisons of R47. -/
theorem condHolds_of_order {a b : Int} {t : State} (haz : flagAz t = decide (a = b))
    (hlt : (flagAn t ^^ flagAv t) = decide (a < b)) :
    condHolds .eq t = decide (a = b) ∧ condHolds .ne t = decide (a ≠ b) ∧
    condHolds .lt t = decide (a < b) ∧ condHolds .ge t = decide (b ≤ a) ∧
    condHolds .gt t = decide (b < a) ∧ condHolds .le t = decide (a ≤ b) := by
  simp only [condHolds, haz, hlt, ← decide_not, ← Bool.decide_or, decide_eq_decide, true_and]
  exact ⟨not_lt, by omega, le_iff_lt_or_eq.symm⟩

/-- Settles O13: the subtraction leaves the flags of its operands' order. -/
theorem compareThenTest : Obligations.CompareThenTest := by
  intro z y x s hlatch
  have hexec := (exec_aluForm .subXY z y x .always s).trans (aluCond_true .subXY z y x (condHolds_always s))
  obtain ⟨haz, hlt, hac⟩ := aluStatus_subXY (aluStep_effect .subXY z _ _ s).1 hlatch
  obtain ⟨heq, hne, hrest⟩ := condHolds_of_order haz hlt
  obtain ⟨hlt, hge, hgt, hle⟩ := hrest
  simp only [ne_eq, BitVec.toInt_inj] at heq hne
  exact ⟨_, hexec, heq, hne, hlt, hge, hgt, hle, hac⟩

end Sys2Proof.Machine
end

section
/-! The multiplier in integers (R230 to R234): the product, the rounding and the overflow test of the model as the
numbers that the statements speak of, and what a MAC step makes of them. -/

namespace Sys2Proof.Machine

open Claims

/-! The 40-bit result. -/

/-- The product of the operands as the format reads them (R230, R231). -/
theorem macProduct_eq_productOf (f : MacFmt) (integer : Bool) (x y : Word) :
    macProduct f integer x y = productOf f integer x y := by
  cases f <;> cases integer <;> simp [macProduct, productOf, macXs, macYs, mul_comm]

theorem macSum_eq_ofInt_macExact (f : MacFn) (integer : Bool) (acc : Acc) (x y : Word) :
    macSum f.op acc (macProduct f.fmt integer x y) = BitVec.ofInt 40 (macExact f integer acc x y) := by
  rw [macProduct_eq_productOf, macExact]
  cases f.op <;> rfl

/-- A mask splits a word into the bits it selects and the others. -/
theorem toNat_and_not_add_toNat_and {w : Nat} (r m : BitVec w) : (r &&& ~~~m).toNat + (r &&& m).toNat = r.toNat := by
  have hdisjoint : (r &&& ~~~m) &&& (r &&& m) = 0#w := by
    ext j hj
    cases hm : m[j] <;> simp [hm]
  have hjoin : (r &&& ~~~m) ||| (r &&& m) = r := by
    ext j hj
    cases hm : m[j] <;> simp [hm]
  rw [← BitVec.toNat_add_of_and_eq_zero hdisjoint, BitVec.add_eq_or_of_and_eq_zero _ _ hdisjoint, hjoin]

/-- Clearing bit 16 takes away its value. -/
theorem toNat_clear_bit16 (r : Acc) :
    (r &&& ~~~(1#40 <<< 16)).toNat = r.toNat - r.toNat / 2 ^ 16 % 2 * 2 ^ 16 := by
  have hbit : (r &&& 1#40 <<< 16).toNat = r.toNat / 2 ^ 16 % 2 * 2 ^ 16 := by
    show r.toNat &&& 2 ^ 16 = _
    rw [Nat.and_two_pow, Nat.toNat_testBit]
  have hsplit := toNat_and_not_add_toNat_and r (1#40 <<< 16)
  omega

/-- Rounding adds half of bit 16, and clears bit 16 when exactly half way and unbiased (R233). -/
theorem round40_toNat (biased : Bool) (res : Acc) : (round40 biased res).toNat = roundNat biased res.toNat := by
  have hhalf : res.extractLsb' 0 16 = 0x8000#16 ↔ res.toNat % 2 ^ 16 = 0x8000 := by
    rw [← BitVec.toNat_inj]; rfl
  simp only [round40, roundNat, hhalf]
  split
  · rw [toNat_clear_bit16]; rfl
  · rfl

/-- A MAC step computes its exact integer modulo 2^40, rounded under RND (R230, R233). -/
theorem macStep_toNat (f : MacFn) (integer biased : Bool) (acc : Acc) (x y : Word) :
    (macStep f integer biased acc x y).toNat = macNat f integer biased acc x y := by
  simp only [macStep, macNat, macSum_eq_ofInt_macExact, apply_ite BitVec.toNat, round40_toNat, BitVec.toNat_ofInt]
  rfl

/-- The upper nine bits differ exactly when the signed number needs more than 32 bits (R234). -/
theorem macOverflow_eq_needs33 (res : Acc) : macOverflow res = needs33 res.toNat := by
  have hres := res.isLt
  have htop : (res.extractLsb' 31 9).toNat = res.toNat / 2 ^ 31 := by
    rw [BitVec.extractLsb'_toNat, Nat.shiftRight_eq_div_pow]
    omega
  rw [Bool.eq_iff_iff]
  simp only [macOverflow, needs33, Bool.not_eq_true', Bool.or_eq_false_iff, beq_eq_false_iff_ne, ne_eq,
    ← BitVec.toNat_inj, htop, BitVec.toNat_ofNat, Bool.and_eq_true, decide_eq_true_eq]
  omega

/-! Writing the result. -/

/-- The `n` bits of a result from bit `k` up, as a number. -/
theorem extractLsb'_eq_ofNat {w : Nat} (v : BitVec w) (k n : Nat) :
    v.extractLsb' k n = BitVec.ofNat n (v.toNat / 2 ^ k) := by
  rw [← Nat.shiftRight_eq_div_pow]
  rfl

theorem writeMr_eq (v : Acc) (b : Bank) :
    writeMr v b =
      { b with
        mr2 := BitVec.ofNat 8 (v.toNat / 2 ^ 32), mr1 := BitVec.ofNat 16 (v.toNat / 2 ^ 16)
        mr0 := BitVec.ofNat 16 v.toNat } := by
  simp only [writeMr, extractLsb'_eq_ofNat, pow_zero, Nat.div_one]

/-- A MAC step writes its result to MR or MF, and of the flags MV alone (R234, R241). -/
theorem macOp_effect (f : MacFn) (z : Dest) (x y : Word) (s : State) : MacEffect f z x y s (macOp f z x y s) := by
  have hnat : (macResult f x y s).toNat = macNat f (mMode s) (biasedRounding s) (mrOf (activeBank s)) x y :=
    macStep_toNat ..
  have hbit : ∀ j, (macOp f z x y s).astat.getLsbD j =
      if j = 6 then macOverflow (macResult f x y s) else s.astat.getLsbD j :=
    fun j => putFlag_getLsbD _ 6 _ j (by decide)
  rw [macOverflow_eq_needs33, hnat] at hbit
  refine ⟨hbit 6, hbit 0, hbit 1, hbit 2, hbit 3, hbit 4, hbit 5, hbit 7, ?_⟩
  cases z with
  | result => simp only [macOp, writeMac, setAstat_astat, writeMr_eq, hnat]
  | feedback => simp only [macOp, writeMac, setAstat_astat, extractLsb'_eq_ofNat, hnat]

end Sys2Proof.Machine
end

section
/-! The MAC instructions (O15, O16, O17): each form is one MAC step on its operands, and SAT MR writes full scale. -/

namespace Sys2Proof.Machine

open Claims

/-- A register form is the generic conditional MAC instruction (R241). -/
theorem exec_macForm (f : MacFn) (z : Dest) (y : MacYop) (x : MacXop) (c : Cond) (s : State) :
    exec (macForm f z y x c) s = macCond f z y x c s := by
  obtain ⟨op, fmt⟩ := f
  cases op <;> cases fmt <;> rfl

/-- Where the condition holds, the MAC step reads its operands from the bank of the state before. -/
theorem macCond_true (f : MacFn) (z : Dest) (y : MacYop) (x : MacXop) {c : Cond} {s : State}
    (h : condHolds c s = true) :
    macCond f z y x c s =
      .next (macOp f z (macX x (activeBank s)) (macY y (activeBank s)) (afterCond c s)) := by
  rw [macCond, ifCond_true _ h, activeBank_afterCond, answer_ok]

/-- Settles O15: each form is the MAC step on the state after the condition. -/
theorem macForms : Obligations.MacForms := by
  intro f z y x c s h
  rw [exec_macForm, macCond_true f z y x h]
  exact ⟨_, rfl, macOp_effect f z _ _ _⟩

/-- A squaring form is the generic conditional squaring instruction (R241, R242). -/
theorem exec_squareForm {f : MacFn} {z : Dest} {x : MacXop} {c : Cond} {i : Instr} (s : State)
    (h : squareForm f z x c = some i) : exec i s = macCondSqr (encodeWith s.cfg.codes i) f z x c s := by
  obtain ⟨op, fmt⟩ := f
  cases fmt with
  | su | us => cases op <;> cases h
  | rnd | ss | uu => cases op <;> cases h <;> rfl

theorem macCondSqr_true (w : PmWord) (f : MacFn) (z : Dest) (x : MacXop) {c : Cond} {s : State}
    (hm : s.cfg.member.hasExt = true) (h : condHolds c s = true) :
    macCondSqr w f z x c s =
      .next (macOp f z (macX x (activeBank s)) (macX x (activeBank s)) (afterCond c s)) := by
  rw [macCondSqr, needsExt_of _ hm, ifCond_true _ h, activeBank_afterCond, answer_ok]

/-- Settles O16: a squaring form is the same MAC step with the xop as both operands. -/
theorem macSquaringForms : Obligations.MacSquaringForms := by
  intro f z x c i s hi hm h
  rw [exec_squareForm s hi, macCondSqr_true _ f z x hm h]
  exact ⟨_, rfl, macOp_effect f z _ _ _⟩

/-- Full scale in the direction of the sign of MR2 (R240). -/
theorem writeMr_saturatedMr (m : BitVec 8) (b : Bank) :
    writeMr (saturatedMr m) b =
      { b with
        mr2 := if m.toInt < 0 then 0xFF#8 else 0#8
        mr1 := if m.toInt < 0 then 0x8000#16 else 0x7FFF#16
        mr0 := if m.toInt < 0 then 0#16 else 0xFFFF#16 } := by
  rw [saturatedMr, BitVec.msb_eq_toInt]
  by_cases h : m.toInt < 0
  · simp only [h, decide_true, if_true]; rfl
  · simp only [h, decide_false, if_false, Bool.false_eq_true]; rfl

/-- Settles O17, by MV. -/
theorem saturateMr : Obligations.SaturateMr := by
  intro s
  show execSatMr s = _
  rw [execSatMr, writeMr_saturatedMr]
  exact (apply_ite ..).symm

end Sys2Proof.Machine
end

section
/-! The output field of the shifter array, bit by bit (R260): the bits of the extended input as an integer, and what
multiplying or dividing it by a power of two makes of them. -/

namespace Sys2Proof.Machine

open Claims

/-! The bits of an integer in two's complement. -/

/-- Bit `k` of an integer is the parity of its quotient by `2 ^ k`, rounded down. -/
theorem testBit_eq_decide_ediv (z : Int) (k : Nat) : z.testBit k = decide (z / 2 ^ k % 2 = 1) := by
  cases z with
  | ofNat n =>
    rw [Int.testBit, Nat.testBit_eq_decide_div_mod_eq, decide_eq_decide, Int.ofNat_eq_natCast]
    norm_cast
  | negSucc n =>
    have hquot : Int.negSucc n / 2 ^ k = -((n / 2 ^ k : Nat) + 1 : Int) := by
      rw [Int.negSucc_ediv n (by positivity)]
      norm_cast
    rw [Int.testBit, Nat.testBit_eq_decide_div_mod_eq, hquot, ← decide_not, decide_eq_decide]
    omega

theorem testBit_ediv_two_pow (z : Int) (q k : Nat) : (z / 2 ^ q).testBit k = z.testBit (q + k) := by
  rw [testBit_eq_decide_ediv, testBit_eq_decide_ediv, Int.ediv_ediv_of_nonneg (by positivity), ← pow_add]

theorem testBit_mul_two_pow_of_le (z : Int) {p k : Nat} (h : p ≤ k) : (z * 2 ^ p).testBit k = z.testBit (k - p) := by
  obtain ⟨d, rfl⟩ := Nat.exists_eq_add_of_le h
  have hpos : (0 : Int) < 2 ^ p := by positivity
  rw [testBit_eq_decide_ediv, testBit_eq_decide_ediv, pow_add, mul_comm z, Int.mul_ediv_mul_of_pos _ _ hpos,
    Nat.add_sub_cancel_left]

theorem testBit_mul_two_pow_of_lt (z : Int) {p k : Nat} (h : k < p) : (z * 2 ^ p).testBit k = false := by
  obtain ⟨d, rfl⟩ := Nat.exists_eq_add_of_lt h
  have hpow : z * 2 ^ (k + d + 1) = 2 ^ k * (2 * (z * 2 ^ d)) := by ring
  have hquot : z * 2 ^ (k + d + 1) / 2 ^ k = 2 * (z * 2 ^ d) := by
    rw [hpow, Int.mul_ediv_cancel_left _ (by positivity)]
  rw [testBit_eq_decide_ediv, hquot, Int.mul_emod_right]
  rfl

theorem getLsbD_ofInt_eq_testBit {w : Nat} (z : Int) {k : Nat} (h : k < w) :
    (BitVec.ofInt w z).getLsbD k = z.testBit k := by
  cases z with
  | ofNat n =>
    rw [Int.testBit, Int.ofNat_eq_natCast, BitVec.ofInt_natCast, BitVec.getLsbD_ofNat]
    simp [h]
  | negSucc n =>
    rw [Int.testBit, BitVec.ofInt_negSucc_eq_not_ofNat, BitVec.getLsbD_not, BitVec.getLsbD_ofNat]
    simp [h]

/-! The extended input and its displacement. -/

/-- The 16-bit input with the bit `e` repeated without end on its left. -/
def extendedInput (x : Word) (e : Bool) : Int := if e then (x.toNat : Int) - 65536 else x.toNat

/-- An integer displaced by `p` places to the left. -/
def displaced (w p : Int) : Int := if 0 ≤ p then w * 2 ^ p.toNat else w / 2 ^ (-p).toNat

theorem shiftField_eq_displaced (x : Word) (c : Int) (ref : HiLo) (e : Bool) :
    shiftField x c ref e = BitVec.ofInt 32 (displaced (extendedInput x e) ((if ref = .hi then 16 else 0) + c)) := by
  cases ref with
  | hi => rfl
  | lo => rw [if_neg (by decide), zero_add]; rfl

theorem extendedInput_testBit (x : Word) (e : Bool) (j : Nat) :
    (extendedInput x e).testBit j = if j ≤ 15 then x.getLsbD j else e := by
  cases e with
  | false =>
    show x.toNat.testBit j = _
    rw [BitVec.testBit_toNat]
    split
    · rfl
    · exact BitVec.getLsbD_of_ge _ _ (by omega)
  | true =>
    have hneg : extendedInput x true = Int.negSucc (~~~x).toNat := by
      rw [extendedInput, if_pos rfl, BitVec.toNat_not]
      have := x.isLt
      omega
    rw [hneg, Int.testBit, BitVec.testBit_toNat, BitVec.getLsbD_not]
    split
    · simp [show j < 16 by omega]
    · simp [show ¬ j < 16 by omega]

/-- Displacing moves bit `j` to bit `j + p`, and zeros come in on the right. -/
theorem displaced_testBit (w p : Int) (k : Nat) :
    (displaced w p).testBit k = if (k : Int) - p < 0 then false else w.testBit ((k : Int) - p).toNat := by
  unfold displaced
  split_ifs with hleft hright hright
  · exact testBit_mul_two_pow_of_lt w (by omega)
  · rw [testBit_mul_two_pow_of_le w (by omega)]
    congr 1
    omega
  · omega
  · rw [testBit_ediv_two_pow]
    congr 1
    omega

/-- The shifter array brings to each bit of the output field the bit that R260 says. -/
theorem shiftField_getLsbD (x : Word) (c : Int) (ref : HiLo) (e : Bool) {k : Nat} (hk : k < 32) :
    (shiftField x c ref e).getLsbD k = fieldBit x c ref e k := by
  rw [shiftField_eq_displaced, getLsbD_ofInt_eq_testBit _ hk, displaced_testBit, extendedInput_testBit, fieldBit]
  simp only [Int.toNat_le, Nat.cast_ofNat]

end Sys2Proof.Machine
end

section
/-! The shifts (O18, O19): each form writes the output field to SR. -/

namespace Sys2Proof.Machine

open Claims

/-- Writing the output field to SR, ORed with the old contents where asked, is what R264 says. -/
theorem writeSr_effect (x : Word) (c : Int) (ref : HiLo) (e withOr : Bool) (s : State) :
    ShiftEffect x c ref e withOr s (writeSr withOr (shiftField x c ref e) s) := by
  refine ⟨if withOr then srOf (activeBank s) ||| shiftField x c ref e else shiftField x c ref e, fun k hk => ?_, rfl⟩
  rw [← shiftField_getLsbD x c ref e hk]
  cases withOr with
  | false => simp
  | true => simp [Bool.or_comm]

@[simp] theorem flagAc_afterCond (c : Cond) (s : State) : flagAc (afterCond c s) = flagAc s :=
  congrArg (BitVec.getLsbD · 3) (afterCond_astat c s)

theorem normFill_eq (ref : HiLo) (s : State) : normFill ref s = (ref == .hi && flagAc s) := by
  cases ref <;> rfl

/-- Each conditional form is the generic conditional shifter instruction (R273). -/
theorem exec_shiftForm_eq_shiftCond (f : ShiftFn) (x : ShiftXop) (c : Cond) (s : State) :
    exec (shiftForm f x c) s = shiftCond f x c s := by
  cases f with
  | lshift ref o | ashift ref o | norm ref o => cases ref <;> cases o <;> rfl
  | expHi | expHix | expLo | expadj => rfl

/-- Where the condition holds, the shifter reads its input from the bank of the state before. -/
theorem exec_shiftForm_true (f : ShiftFn) (x : ShiftXop) {c : Cond} {s : State} (h : condHolds c s = true) :
    exec (shiftForm f x c) s = .next (shiftOp f (shiftX x (activeBank s)) (afterCond c s)) := by
  rw [exec_shiftForm_eq_shiftCond, shiftCond, ifCond_true _ h, activeBank_afterCond, answer_ok]

/-- Settles O18: each form writes the output field for its code and its extension bit. -/
theorem shiftForms : Obligations.ShiftForms := by
  intro ref o x c s h
  simp only [exec_shiftForm_true _ x h, shiftOp, activeBank_afterCond, normFill_eq, flagAc_afterCond]
  exact ⟨⟨_, rfl, writeSr_effect ..⟩, ⟨_, rfl, writeSr_effect ..⟩, ⟨_, rfl, writeSr_effect ..⟩⟩

/-- An immediate form writes the output field for the code of the word (R270, R271). -/
theorem exec_shiftImmForm (arith : Bool) (ref : HiLo) (o : Bool) (x : ShiftXop) (e : BitVec 8) (s : State) :
    exec (shiftImmForm arith ref o x e) s =
      .next (writeSr o (shiftField (shiftX x (activeBank s)) e.toInt ref
        (arith && (shiftX x (activeBank s)).msb)) s) := by
  cases arith <;> cases ref <;> cases o <;> rfl

/-- Settles O19. -/
theorem shiftImmediates : Obligations.ShiftImmediates := by
  intro arith ref o x e s
  exact ⟨_, exec_shiftImmForm arith ref o x e s, writeSr_effect ..⟩

end Sys2Proof.Machine
end

section
/-! The exponent detector (O20, O21): the run of leading bits that the model counts, and the number of redundant sign
bits it stands for (R268, R272). -/

namespace Sys2Proof.Machine

open Claims

/-! Runs of leading bits. -/

/-- Counting down from bit `n - 1` stops at the first bit that differs. -/
theorem leadingRun_spec (b : Bool) (x : Word) (n : Nat) :
    leadingRun b x n ≤ n ∧ (∀ k < leadingRun b x n, x.getLsbD (n - 1 - k) = b) ∧
      (leadingRun b x n < n → x.getLsbD (n - 1 - leadingRun b x n) ≠ b) := by
  induction n with
  | zero => simp [leadingRun]
  | succ n ih =>
    obtain ⟨hle, hrun, hend⟩ := ih
    by_cases hbit : x.getLsbD n = b
    · have hcount : leadingRun b x (n + 1) = leadingRun b x n + 1 := by simp [leadingRun, hbit]
      rw [hcount]
      refine ⟨by omega, fun k hk => ?_, fun h => ?_⟩
      · cases k with
        | zero => exact hbit
        | succ k =>
          rw [show n + 1 - 1 - (k + 1) = n - 1 - k by omega]
          exact hrun k (by omega)
      · rw [show n + 1 - 1 - (leadingRun b x n + 1) = n - 1 - leadingRun b x n by omega]
        exact hend (by omega)
    · have hcount : leadingRun b x (n + 1) = 0 := by simp [leadingRun, hbit]
      rw [hcount]
      exact ⟨by omega, by omega, fun _ => hbit⟩

theorem leadingBits_isLeadingRun (b : Bool) (x : Word) : IsLeadingRun b x (leadingBits b x) :=
  leadingRun_spec b x 16

/-! The number of redundant sign bits. -/

/-- The input as far as its bits differ from its sign: complemented where it is negative. -/
def signless (x : Word) : Word := if x.msb then ~~~x else x

theorem signless_getLsbD (x : Word) {i : Nat} (h : i < 16) : (signless x).getLsbD i = (x.getLsbD i != x.msb) := by
  unfold signless
  cases x.msb <;> simp [h]

/-- A signed number lies between `-2 ^ m` and `2 ^ m` where its signless bits are below bit `m`. -/
theorem signless_lt_iff (x : Word) (m : Nat) :
    (-(2 ^ m) ≤ x.toInt ∧ x.toInt < 2 ^ m) ↔ (signless x).toNat < 2 ^ m := by
  have hx := x.isLt
  have hcast : ((2 ^ m : Nat) : Int) = 2 ^ m := by norm_cast
  rw [← hcast, signless, BitVec.toInt_eq_msb_cond]
  have hpos : 0 < 2 ^ m := by positivity
  cases hmsb : x.msb with
  | false => simp only [Bool.false_eq_true, if_false]; omega
  | true => simp only [if_true, BitVec.toNat_not]; omega

/-- A word is below `2 ^ m` where its bits from `m` up are zero. -/
theorem toNat_lt_two_pow_iff (y : Word) (m : Nat) :
    y.toNat < 2 ^ m ↔ ∀ i < 16, m ≤ i → y.getLsbD i = false := by
  constructor
  · intro h i _ hi
    exact Nat.testBit_lt_two_pow (h.trans_le (Nat.pow_le_pow_right (by decide) hi))
  · intro h
    refine Nat.lt_pow_two_of_testBit _ fun i hi => ?_
    rcases Nat.lt_or_ge i 16 with hlt | hge
    · exact h i hlt hi
    · exact BitVec.getLsbD_of_ge y i hge

/-- A signed number has at least `r` redundant sign bits where the `r` bits below its sign equal it (R272). -/
theorem fitsBits_iff (x : Word) {r : Nat} (hr : r ≤ 15) : fitsBits x r ↔ ∀ k ≤ r, x.getLsbD (15 - k) = x.msb := by
  rw [fitsBits, signless_lt_iff, toNat_lt_two_pow_iff]
  constructor
  · intro h k hk
    have hbit := h (15 - k) (by omega) (by omega)
    rwa [signless_getLsbD x (by omega), bne_eq_false_iff_eq] at hbit
  · intro h i hi hri
    have hbit := h (15 - i) (by omega)
    rw [show 15 - (15 - i) = i by omega] at hbit
    rw [signless_getLsbD x hi, hbit, bne_self_eq_false]

/-- A run of `n` leading sign bits holds the sign and `n - 1` redundant ones. -/
theorem isExponent_of_isLeadingRun {x : Word} {n : Nat} (h : IsLeadingRun x.msb x n) : IsExponent x (1 - n) := by
  obtain ⟨hle, hrun, hend⟩ := h
  have hpos : n ≠ 0 := by
    rintro rfl
    exact hend (by decide) (BitVec.msb_eq_getLsbD_last x).symm
  obtain ⟨r, rfl⟩ := Nat.exists_eq_succ_of_ne_zero hpos
  refine ⟨r, by omega, by omega, (fitsBits_iff x (by omega)).mpr fun k hk => hrun k (by omega), fun hr hfits => ?_⟩
  exact hend (by omega) ((fitsBits_iff x (by omega)).mp hfits (r + 1) le_rfl)

theorem expHiOf_isExponent (x : Word) : IsExponent x (expHiOf x) :=
  isExponent_of_isLeadingRun (leadingBits_isLeadingRun x.msb x)

/-! The instructions. -/

@[simp] theorem flagAv_afterCond (c : Cond) (s : State) : flagAv (afterCond c s) = flagAv s :=
  congrArg (BitVec.getLsbD · 2) (afterCond_astat c s)

@[simp] theorem flagSs_afterCond (c : Cond) (s : State) : flagSs (afterCond c s) = flagSs s :=
  congrArg (BitVec.getLsbD · 7) (afterCond_astat c s)

/-- Writing SE and SS writes bit 7 of ASTAT and keeps the other flags (R268). -/
theorem writeExp_effect (se : BitVec 8) (sign : Bool) (s : State) : ExpEffect se sign s (writeExp se sign s) := by
  have hbit : ∀ j, (writeExp se sign s).astat.getLsbD j = if j = 7 then sign else s.astat.getLsbD j :=
    fun j => putFlag_getLsbD _ 7 _ j (by decide)
  refine ⟨hbit 7, fun k hk => ?_, rfl⟩
  rw [hbit, if_neg (by omega)]

/-- EXP (HIX) tells an overflowed input by AV (R268). -/
theorem expHix_effect (x : Word) (s : State) :
    if flagAv s then ExpEffect 1#8 (!x.msb) s (expHix x s)
    else ExpEffect (BitVec.ofInt 8 (expHiOf x)) x.msb s (expHix x s) := by
  unfold expHix
  split
  · exact writeExp_effect ..
  · exact writeExp_effect ..

/-- EXP (LO) continues the count where EXP (HI) found fifteen redundant sign bits (R268). -/
theorem expLo_eq (x : Word) (s : State) :
    expLo x s =
      if (activeBank s).se.toInt = -15 then
        setBank { activeBank s with se := BitVec.ofInt 8 (-15 - leadingBits (flagSs s) x) } s
      else s := by
  unfold expLo expLoOf
  split
  · rfl
  · exact setBank_activeBank s

/-- Settles O20: the exponent and the run are those the model counts. -/
theorem deriveExponent : Obligations.DeriveExponent := by
  intro x c s h
  refine ⟨⟨_, expHiOf_isExponent _, ⟨_, exec_shiftForm_true .expHi x h, writeExp_effect ..⟩,
    ⟨_, exec_shiftForm_true .expHix x h, ?_⟩⟩, ⟨_, leadingBits_isLeadingRun _ _, ?_⟩⟩
  · rw [← flagAv_afterCond c s]
    exact expHix_effect _ _
  · refine (exec_shiftForm_true .expLo x h).trans ?_
    rw [shiftOp, expLo_eq, activeBank_afterCond, flagSs_afterCond]

/-- Settles O21. -/
theorem adjustBlockExponent : Obligations.AdjustBlockExponent := by
  intro x c s h
  refine ⟨_, expHiOf_isExponent _, (exec_shiftForm_true .expadj x h).trans ?_⟩
  rw [shiftOp, expAdj, activeBank_afterCond]

end Sys2Proof.Machine
end

section
/-! Address generation in the words of the statements (`20_memory.md` R91): the base of a circular buffer, the
precondition of the modulus logic, and what a post-modify makes of the state. -/

namespace Sys2Proof.Machine

open Claims

/-! The base of a circular buffer. -/

theorem bufferBits_le (len : Addr) : bufferBits len.toNat ≤ 14 := by
  have hleast := (bufferBits_spec len.toNat len.isLt.le).2
  by_contra hlarge
  exact absurd (hleast 14 (by omega)) len.isLt.le.not_gt

theorem bufferBase_eq_sub_mod (i len : Addr) :
    bufferBase i len = i.toNat - i.toNat % 2 ^ bufferBits len.toNat :=
  Nat.eq_sub_of_add_eq (Nat.div_add_mod' _ _)

/-- A buffer has one base, the one the model computes. -/
theorem isBase_iff (i len : Addr) (B : Nat) : IsBase i len B ↔ B = bufferBase i len := by
  obtain ⟨hfits, hleast⟩ := bufferBits_spec len.toNat len.isLt.le
  constructor
  · rintro ⟨n, hn, hnleast, rfl⟩
    have hexp : n = bufferBits len.toNat := by
      rcases Nat.lt_trichotomy n (bufferBits len.toNat) with h | h | h
      · exact absurd hn (hleast n h).not_ge
      · exact h
      · exact absurd hfits (hnleast _ h).not_ge
    rw [hexp, bufferBase_eq_sub_mod]
  · rintro rfl
    exact ⟨_, hfits, hleast, bufferBase_eq_sub_mod i len⟩

theorem bufferBase_le (i len : Addr) : bufferBase i len ≤ i.toNat := Nat.div_mul_le_self _ _

/-- A buffer ends inside the address space: its base is a multiple of a power of two that holds its length. -/
theorem bufferBase_add_length_le (i len : Addr) : bufferBase i len + len.toNat ≤ 2 ^ 14 := by
  have hfits := (bufferBits_spec len.toNat len.isLt.le).1
  have h14 := bufferBits_le len
  unfold bufferBase
  generalize bufferBits len.toNat = n at hfits h14
  have hsplit : 2 ^ 14 = 2 ^ (14 - n) * 2 ^ n := by rw [← pow_add, Nat.sub_add_cancel h14]
  have hblock : i.toNat / 2 ^ n + 1 ≤ 2 ^ (14 - n) :=
    Nat.div_lt_of_lt_mul (by rw [mul_comm, ← hsplit]; exact i.isLt)
  calc i.toNat / 2 ^ n * 2 ^ n + len.toNat ≤ i.toNat / 2 ^ n * 2 ^ n + 2 ^ n := by omega
    _ = (i.toNat / 2 ^ n + 1) * 2 ^ n := by ring
    _ ≤ 2 ^ (14 - n) * 2 ^ n := Nat.mul_le_mul_right _ hblock
    _ = 2 ^ 14 := hsplit.symm

/-! The modulus logic. -/

theorem modifyDefined_iff (i m len : Addr) : modifyDefined i m len = true ↔ ModifyPre i m len := by
  simp [modifyDefined, ModifyPre, isBase_iff]

/-- The sum of an index and a modifier, brought back by one length where it has left the buffer. -/
def wrapIndex (base length sum : Int) : Int :=
  if sum < base then sum + length else if base + length ≤ sum then sum - length else sum

/-- A sum that has left the buffer by no more than one length is brought back into it. -/
theorem wrapIndex_spec {base length sum : Int} (hlow : base - length ≤ sum) (hhigh : sum < base + 2 * length) :
    base ≤ wrapIndex base length sum ∧ wrapIndex base length sum < base + length ∧
      (wrapIndex base length sum - sum) % length = 0 := by
  unfold wrapIndex
  split
  · exact ⟨by omega, by omega, by simp⟩
  · split
    · exact ⟨by omega, by omega, by simp⟩
    · exact ⟨by omega, by omega, by simp⟩

theorem modifyIndex_circular {i m len : Addr} (h : len ≠ 0) :
    modifyIndex i m len =
      BitVec.ofInt 14 (wrapIndex (bufferBase i len) len.toNat ((i.toNat : Int) + m.toInt)) := by
  rw [modifyIndex, if_neg h]
  rfl

theorem toNat_ofInt_of_lt {v : Int} (h0 : 0 ≤ v) (h : v < 2 ^ 14) : ((BitVec.ofInt 14 v).toNat : Int) = v := by
  rw [BitVec.toNat_ofInt]
  omega

/-- Linear addressing adds modulo 2^14. -/
theorem modifyIndex_linear_modified (i m : Addr) : IsModified i m 0 (modifyIndex i m 0) := by
  have hmod : m.toInt = m.toNat ∨ m.toInt = m.toNat - 2 ^ 14 := by rw [BitVec.toInt_eq_toNat_cond]; omega
  simp only [IsModified, modifyIndex, if_true, BitVec.toNat_add]
  omega

/-- Inside its precondition the modulus logic gives the index the statements describe (R91). -/
theorem modifyIndex_modified {i m len : Addr} (h : ModifyPre i m len) : IsModified i m len (modifyIndex i m len) := by
  by_cases hlen : len = 0
  · subst hlen
    exact modifyIndex_linear_modified i m
  · obtain ⟨hin, hm⟩ := h.resolve_left hlen _ ((isBase_iff ..).mpr rfl)
    have hbase := bufferBase_le i len
    have hend := bufferBase_add_length_le i len
    obtain ⟨hge, hlt, hcong⟩ := wrapIndex_spec (base := bufferBase i len) (length := len.toNat)
      (sum := (i.toNat : Int) + m.toInt) (by omega) (by omega)
    have hnat := toNat_ofInt_of_lt ((Int.natCast_nonneg _).trans hge) (by omega)
    rw [IsModified, if_neg hlen, modifyIndex_circular hlen]
    intro B hB
    rw [isBase_iff] at hB
    subst hB
    exact ⟨by omega, by omega, by rwa [hnat]⟩

/-- A post-modify in the words of the statements. -/
theorem postModify_modified (a b : DagIdx) (s : State) : PostModified a b s (postModify a b s) := by
  rw [postModify_eq]
  by_cases h : ModifyPre s.dag.i[a] s.dag.m[b] s.dag.l[a]
  · rw [if_pos ((modifyDefined_iff ..).mpr h)]
    exact ⟨_, fun _ => ⟨modifyIndex_modified h, rfl⟩, fun hn => absurd h hn⟩
  · rw [if_neg (mt (modifyDefined_iff ..).mp h)]
    exact ⟨_, fun hp => absurd hp h, fun _ => rfl⟩

end Sys2Proof.Machine
end

section
/-! The obligations of `43_move.md`: each move reads its source, by a register read or a memory access, and writes
what it read; an indirect access post-modifies its I register last. -/

namespace Sys2Proof.Machine

open Claims

/-- Whether a register can be written depends on the counter stack alone. -/
theorem regWritable_congr {d : Reg} {s u : State} (hcfg : u.cfg = s.cfg) (hseq : u.seq = s.seq) :
    regWritable d u ↔ regWritable d s := by
  simp only [regWritable, hcfg, hseq]

/-! The meanings of the moves, once their read or their write has succeeded. -/

theorem regToReg_of_read {w : PmWord} {d r : Reg} {v : Word} {s u : State} (h : readReg w r s = .ok (v, u)) :
    regToReg w d r s = writeReg w d v u := by simp [regToReg, h]

theorem dmToReg_of_read {w : PmWord} {a : Addr} {d : Reg} {v : Word} {s u : State} (h : readDm a s = .ok (v, u)) :
    dmToReg w a d s = writeReg w d v u := by simp [dmToReg, h]

theorem regToDm_of_read {w : PmWord} {a : Addr} {r : Reg} {v : Word} {s u : State}
    (h : readReg w r s = .ok (v, u)) : regToDm w a r s = writeDm a v u := by simp [regToDm, h]

theorem ioToDreg_of_read {a : IoAddr} {d : DReg} {v : Word} {s u : State} (h : readIoSpace a s = .ok (v, u)) :
    ioToDreg a d s = .ok (writeDreg d v u) := by simp [ioToDreg, h]

theorem loadDmInd_of_read {compute : State → State} {d : DReg} {a b : DagIdx} {v : Word} {s u : State}
    (h : readDm (addrOut s a) s = .ok (v, u)) :
    loadDmInd compute d a b s = .ok (postModify a b (writeDreg d v (compute u))) := by simp [loadDmInd, h]

theorem loadPmInd_of_read {compute : State → State} {d : DReg} {a b : DagIdx} {p : PmWord} {s u : State}
    (h : readPm (addrOut s a) s = .ok (p, u)) :
    loadPmInd compute d a b s =
      .ok (postModify a b (setPx (p.extractLsb' 0 8) (writeDreg d (p.extractLsb' 8 16) (compute u)))) := by
  simp [loadPmInd, h]

theorem storeDmInd_of_write {compute : State → State} {v : Word} {a b : DagIdx} {s u : State}
    (h : writeDm (addrOut s a) v s = .ok u) : storeDmInd compute v a b s = .ok (postModify a b (compute u)) := by
  simp [storeDmInd, h]

theorem storePmInd_of_write {compute : State → State} {v : Word} {a b : DagIdx} {s u : State}
    (h : writePm (addrOut s a) (pmWordOf v s.px) s = .ok u) :
    storePmInd compute v a b s = .ok (postModify a b (compute u)) := by
  rw [← append_px] at h
  simp [storePmInd, h]

/-- The high 16 bits of a program memory word go to the data register, the low 8 to PX (R95). -/
theorem pmLoaded_postModify (d : DReg) (a b : DagIdx) (p : PmWord) (u : State) :
    PmLoaded d a b p u
      (postModify a b (setPx (p.extractLsb' 0 8) (writeDreg d (p.extractLsb' 8 16) u))) := by
  rw [pmHigh, pmLow]
  exact ⟨_, writeDreg_written d _ u, postModify_modified a b _⟩

/-- An indirect store of any value, where the location can be written. -/
theorem storeDmInd_stores (v : Word) {a : DagIdx} (b : DagIdx) {s : State} (h : dmWritable s (addrOut s a)) :
    ∃ u t, DmWrites s (addrOut s a) v u ∧ PostModified a b u t ∧ answer (storeDmInd id v a b s) = .next t := by
  obtain ⟨u, hwrite, hwrites⟩ := writeDm_writes s _ v h
  exact ⟨u, _, hwrites, postModify_modified a b u, answer_eq_next.mpr (storeDmInd_of_write hwrite)⟩

/-! The obligations. -/

/-- Settles O23: a source register can be read, and the read leaves the counter stack as it was. -/
theorem registerMoves : Obligations.RegisterMoves := by
  intro d r s hr hd
  obtain ⟨v, u, hread, hreads, hcfg, hseq, -⟩ := readReg_reads (encodeWith s.cfg.codes (.moveReg d r)) r s hr
  obtain ⟨t, hwrite, hwritten⟩ := writeReg_written _ d v u ((regWritable_congr hcfg hseq).mpr hd)
  exact ⟨v, u, t, hreads, hwritten, answer_eq_next.mpr ((regToReg_of_read hread).trans hwrite)⟩

/-- Settles O24: the 14-bit data is written as the 16-bit word of the same signed value. -/
theorem immediateLoads : Obligations.ImmediateLoads := by
  refine ⟨fun v d s => ⟨_, rfl, writeDreg_written d v s⟩, fun v d s hnotDreg hd => ?_⟩
  obtain ⟨t, hwrite, hwritten⟩ :=
    writeReg_written (encodeWith s.cfg.codes (.loadReg v d)) d (v.signExtend 16) s hd
  refine ⟨_, t, BitVec.toInt_signExtend_of_le (by decide), hwritten, ?_⟩
  show execLoadReg v d s = _
  rw [execLoadReg, hnotDreg, if_neg Bool.false_ne_true, hwrite, answer_ok]

/-- Settles O25: a memory read leaves the counter stack, and a register read the memories, as they were. -/
theorem directDataMoves : Obligations.DirectDataMoves := by
  refine ⟨fun a d s ha hd => ?_, fun a r s hr ha => ?_⟩
  · obtain ⟨v, u, hread, hreads, hcfg, hseq⟩ := readDm_reads s a ha
    obtain ⟨t, hwrite, hwritten⟩ :=
      writeReg_written (encodeWith s.cfg.codes (.readDm a d)) d v u ((regWritable_congr hcfg hseq).mpr hd)
    exact ⟨v, u, t, hreads, hwritten, answer_eq_next.mpr ((dmToReg_of_read hread).trans hwrite)⟩
  · obtain ⟨v, u, hread, hreads, hcfg, -⟩ := readReg_reads (encodeWith s.cfg.codes (.writeDm a r)) r s hr
    have hwritable : dmWritable u a := by rwa [dmWritable, hcfg]
    obtain ⟨t, hwrite, hwrites⟩ := writeDm_writes u a v hwritable
    exact ⟨v, u, t, hreads, hwrites, answer_eq_next.mpr ((regToDm_of_read hread).trans hwrite)⟩

/-- Settles O26: the access is made at `addrOut` of the state before, the post-modify comes last. -/
theorem indirectDataMoves : Obligations.IndirectDataMoves := by
  intro g i m s
  refine ⟨fun ha d => ?_, fun ha => ⟨fun r => storeDmInd_stores _ _ ha, fun v => storeDmInd_stores v _ ha⟩⟩
  obtain ⟨v, u, hread, hreads, -⟩ := readDm_reads s _ ha
  exact ⟨v, u, _, _, hreads, writeDreg_written d v u, postModify_modified _ _ _,
    answer_eq_next.mpr (loadDmInd_of_read hread)⟩

/-- Settles O27: as O26, with the word cut into, or put together from, the data register and PX. -/
theorem indirectProgramMoves : Obligations.IndirectProgramMoves := by
  intro i m s
  refine ⟨fun ha d => ?_, fun ha r => ?_⟩
  · obtain ⟨p, u, hread, hreads⟩ := readPm_reads s _ ha
    exact ⟨p, u, _, hreads, pmLoaded_postModify d _ _ p u, answer_eq_next.mpr (loadPmInd_of_read hread)⟩
  · obtain ⟨u, hwrite, hwrites⟩ := writePm_writes s _ (pmWordOf (dregVal r (activeBank s)) s.px) ha
    exact ⟨u, _, hwrites, postModify_modified _ _ u, answer_eq_next.mpr (storePmInd_of_write hwrite)⟩

/-- Settles O28: every populated I/O location is a device, whose input is the word read. -/
theorem ioMoves : Obligations.IoMoves := by
  intro a d s hio ha
  refine ⟨⟨Config.ioInput s.draws a, _, writeDreg_written d _ _, ?_⟩, ?_⟩
  · show execReadIo a d s = _
    rw [execReadIo, if_pos hio, ioToDreg_of_read (readIoSpace_eq_ok.mpr ⟨ha, rfl, rfl⟩), answer_ok]
  · show execWriteIo a d s = _
    rw [execWriteIo, if_pos hio, writeIoSpace_eq_ok.mpr ⟨ha, rfl⟩, answer_ok]

end Sys2Proof.Machine
end

section
/-! Transfers of control (R330 to R334, R336): the jumps and calls as one conditional operation, and the counter
condition of `10_state.md` R48 through the direct JUMP. -/

namespace Sys2Proof.Machine

open Claims

@[simp] theorem afterCond_dag (c : Cond) (s : State) : (afterCond c s).dag = s.dag := by
  unfold afterCond; split <;> rfl

@[simp] theorem afterCond_pc (c : Cond) (s : State) : (afterCond c s).seq.pc = s.seq.pc := by
  rw [afterCond_seq]

/-- NOT CE holds unless CNTR was 1 before it is counted down (R48, D10). -/
theorem condHolds_notCe (s : State) : condHolds .notCe s = !decide (s.seq.cntr.toNat = 1) := by
  have hzero : s.seq.cntr - 1 = 0 ↔ s.seq.cntr.toNat = 1 := by bv_omega
  simp only [condHolds, cntrDown, bne, beq_eq_decide, hzero]

/-- The direct JUMP transfers on the state after the condition, where the condition holds. -/
theorem exec_jump (a : Addr) (c : Cond) (s : State) :
    exec (.jump a c) s = .next (if condHolds c s then transferTo a (afterCond c s) else afterCond c s) := by
  show answer (ifCond c (fun t => .ok (transferTo a t)) s) = _
  cases hc : condHolds c s with
  | false => rw [ifCond_false _ hc]; rfl
  | true => rw [ifCond_true _ hc]; rfl

/-- The register of an indirect transfer is one of I4 to I7, which evaluating the condition does not change. -/
theorem indirectTarget_afterCond (i : BitVec 2) (c : Cond) (s : State) :
    indirectTarget i (afterCond c s) = s.dag.i[4 + i.toNat]'(by omega) := by
  have hidx : (dagIdx .dag2 i).val = 4 + i.toNat := Nat.mod_eq_of_lt (by omega)
  simp only [indirectTarget, afterCond_dag, Fin.getElem_fin, hidx]

/-- A CALL with no pop pending and room on the PC stack pushes the return address and transfers (R332, R333). -/
theorem callTo_room {a : Addr} {s : State} (hp : s.seq.pcPopPending = false)
    (hroom : s.seq.pcStack.length < pcStackDepth) :
    callTo a s = .ok (transferTo a { s with seq := { s.seq with
      pcStack := BitVec.ofNat 14 (s.seq.pc.toNat + 1) :: s.seq.pcStack } }) := by
  have hpush := (pushPc_eq_ok (a := returnAddr s)).mpr ⟨hroom, rfl⟩
  rw [callTo, guardPcStack_ok hp, result_bind_ok, hpush, result_bind_ok, returnAddr_eq]

/-- Evaluating a condition changes neither what a CALL needs nor what it pushes. -/
theorem callTo_afterCond {a : Addr} {c : Cond} {s : State} (hp : s.seq.pcPopPending = false)
    (hroom : s.seq.pcStack.length < pcStackDepth) :
    callTo a (afterCond c s) = .ok (transferTo a { afterCond c s with seq := { (afterCond c s).seq with
      pcStack := BitVec.ofNat 14 (s.seq.pc.toNat + 1) :: s.seq.pcStack } }) := by
  rw [callTo_room (by rwa [afterCond_pcPopPending]) (by rwa [afterCond_pcStack]), afterCond_pc, afterCond_pcStack]

/-- Settles O8: NOT CE counts CNTR down, whether or not it holds. -/
theorem notCeCountsDown : Obligations.NotCeCountsDown := by
  intro a s
  rw [exec_jump, condHolds_notCe, afterCond_eq]
  refine ⟨_, rfl, ?_⟩
  by_cases hone : s.seq.cntr.toNat = 1 <;> simp [hone, transferTo]

/-- Settles O33: each form is its transfer, to an address or a register that the condition leaves as it was. -/
theorem jumpsAndCalls : Obligations.JumpsAndCalls := by
  intro a i c fic s
  refine ⟨fun hc => ⟨?_, ?_, fun hp hroom => ⟨?_, ?_⟩⟩, fun hfi => ⟨?_, fun hp hroom => ?_⟩, fun hfi => ⟨?_, ?_⟩⟩
  · rw [exec_jump, if_pos hc]
  · show answer (ifCond c (fun t => .ok (transferTo (indirectTarget i t) t)) s) = _
    rw [ifCond_true _ hc, indirectTarget_afterCond, answer_ok]
  · show answer (ifCond c (callTo a) s) = _
    rw [ifCond_true _ hc, callTo_afterCond hp hroom, answer_ok]
  · show answer (ifCond c (fun t => callTo (indirectTarget i t) t) s) = _
    rw [ifCond_true _ hc, indirectTarget_afterCond, callTo_afterCond hp hroom, answer_ok]
  · exact if_pos hfi
  · show execCallFlag a fic s = _
    rw [execCallFlag, if_pos hfi, callTo_room hp hroom, answer_ok]
  · exact if_neg hfi
  · exact if_neg hfi

end Sys2Proof.Machine
end

section
/-! The end of a step (R335, R351, R481): where the sequencer goes after an instruction, and the step that is made of
it; and the idle processor (R360). -/

namespace Sys2Proof.Machine

open Claims

/-! The next PC. -/

/-- A transfer wins, at a loop end and elsewhere. -/
theorem advance_transfer (s : State) {t : State} {a : Addr} (h : t.seq.transfer = some a) :
    advance s t = .ok (setPc a t) := by
  simp only [advance, h]

/-- Without a transfer and with its condition not met, a loop goes back to the top of the PC stack (R351). -/
theorem advance_loopBack {s t : State} {e : LoopEntry} {a : Addr} {more : List Addr} (hend : atLoopEnd s = some e)
    (hno : t.seq.transfer = none) (hterm : termHolds e.term s = false) (htop : t.seq.pcStack = a :: more) :
    advance s t = .ok (setPc a t) := by
  simp [advance, hno, hend, hterm, topPc_eq_ok.mpr ⟨more, htop⟩]

/-- Away from a loop end the sequencer goes to the transfer the instruction takes or to the next address. -/
theorem advance_outside {s : State} (t : State) (hend : atLoopEnd s = none) :
    advance s t = .ok (setPc (t.seq.transfer.getD (s.seq.pc + 1)) t) := by
  cases htr : t.seq.transfer with
  | none => simp [advance, htr, hend]
  | some a => exact advance_transfer s htr

/-! The delayed pop. -/

/-- With no pop pending the step ends at the next PC. -/
theorem completeInstr_setPc {s t : State} {a : Addr} (hp : s.seq.pcPopPending = false)
    (h : advance s t = .ok (setPc a t)) : completeInstr s t = .ok (stepTo a t) := by
  simp [completeInstr, h, delayedPop, hp, stepTo, tick, setPc]

/-- A pending pop takes the top of the PC stack that the instruction leaves, and is then no longer pending. -/
theorem completeInstr_pop {s t : State} {a b : Addr} {rest : List Addr} (hp : s.seq.pcPopPending = true)
    (h : advance s t = .ok (setPc a t)) (htop : t.seq.pcStack = b :: rest) :
    completeInstr s t =
      .ok (stepTo a { t with seq := { t.seq with pcStack := rest, pcPopPending := false } }) := by
  have hpop : popPc (setPc a t) = .ok (b, { setPc a t with seq := { (setPc a t).seq with pcStack := rest } }) :=
    popPc_eq_ok.mpr ⟨rest, htop, rfl⟩
  rw [completeInstr, h, result_bind_ok, delayedPop, if_pos hp, hpop]
  rfl

/-! The step. -/

/-- A step whose instruction is allowed at PC and answers a next state ends as the sequencer ends that state; the
latches that dispatch samples have no part in that. -/
theorem step_of_exec {s t : State} {w : PmWord} {i : Instr} {pend : List Bool}
    (hn : NoInterrupt s ∨ (s.seq.pcPopPending = true ∧ s.cfg.topPcPopInt = .hold)) (hl : LatchesNow s pend)
    (hf : Fetches s w) (hd : decodeWith s.cfg.codes w = .ok i) (hfree : loopEndRestricted i s = false)
    (hpop : (s.seq.pcPopPending && (atLoopEnd s).isSome) = false)
    (hexec : exec i (beginInstr { s with int := { s.int with irqPending := pend } }) = .next t) :
    step s = answer (completeInstr s t) := by
  have hfree' : loopEndRestricted i { s with int := { s.int with irqPending := pend } } = false := hfree
  have hpop' : (s.seq.pcPopPending &&
      (atLoopEnd { s with int := { s.int with irqPending := pend } }).isSome) = false := hpop
  rw [step_eq_runInstr s w i pend hn hl hf hd, runInstr]
  simp only [hfree', hpop', hexec, Bool.false_eq_true, if_false]
  rfl

/-- Settles O47: dispatch only samples the requests, and the instruction runs away from a loop end. -/
theorem stepRunsDecoded : Obligations.StepRunsDecoded := by
  intro s w i pend hn hl hf hd hp haway
  rw [step_eq_runInstr s w i pend (.inl hn) hl hf hd]
  exact runInstr_away (s := { s with int := { s.int with irqPending := pend } }) i haway hp

/-- Settles O48: with no pop pending, the transfer or the top of the PC stack is where the step ends. -/
theorem loopEndGoesOn : Obligations.LoopEndGoesOn := by
  intro s t w i pend e rest hn hl hf hd hp hloop hlast hallowed hexec
  have hend := atLoopEnd_some s e rest hloop hlast
  have hstep : step s = answer (completeInstr s t) :=
    step_of_exec (.inl hn) hl hf hd (loopEndRestricted_false i s e rest hloop hlast hallowed) (by simp [hp])
      (by rw [beginInstr_end s e rest pend hloop hlast, hexec])
  refine ⟨fun a htr => ?_, fun a more hno hterm htop => ?_⟩
  · rw [hstep, completeInstr_setPc hp (advance_transfer s htr), answer_ok]
  · have hnot : termHolds e.term s = false := by rwa [← termHolds_iff, Bool.not_eq_true] at hterm
    rw [hstep, completeInstr_setPc hp (advance_loopBack hend hno hnot htop), answer_ok]

/-- Settles O51: a pending pop under the hold setting keeps dispatch from taking an interrupt, and the pop is made on
the PC stack that the instruction leaves. (`delayedPop` itself is the sequencer's operation.) -/
theorem step_makes_delayedPop : Obligations.DelayedPop := by
  intro s t w i pend a rest hn hl hf hd hp haway hexec htop
  have hend := atLoopEnd_none s haway
  have hstep : step s = answer (completeInstr s t) :=
    step_of_exec (hn.imp_right fun hhold => ⟨hp, hhold⟩) hl hf hd (by simp [loopEndRestricted, hend])
      (by simp [hend]) (by rw [beginInstr_away s pend haway, hexec])
  rw [hstep, completeInstr_pop hp (advance_outside t hend) htop, answer_ok]

/-- Settles O40: each is its meaning in the dispatch, and the divisor of IDLE (n) is not read. -/
theorem idleAndNop : Obligations.IdleAndNop := fun _ _ => ⟨rfl, rfl, rfl⟩

/-- Settles O55: dispatch only samples the requests, and an idle step then only ends. -/
theorem idleWaits : Obligations.IdleWaits := by
  intro s pend hidle hn hl
  rw [step, dispatchInterrupt_none s pend hn hl]
  exact if_pos hidle

end Sys2Proof.Machine
end

section
/-! MODIFY, the address output and the mode bits (`20_memory.md` R91 to R93, `45_misc.md` R380, R385): which registers
DAG1 owns, an address bit by bit, and a mode bit after its field has acted. -/

namespace Sys2Proof.Machine

open Claims

/-! Address output (R93). -/

/-- The registers numbered below 4 are DAG1's (R92). -/
theorem dagIdx_lt_four (g : DagSel) (n : BitVec 2) : (dagIdx g n).val < 4 ↔ g = .dag1 := by
  cases g with
  | dag1 =>
    have hidx : (dagIdx .dag1 n).val = n.toNat := Nat.mod_eq_of_lt (by omega)
    simp only [hidx, iff_true]
    omega
  | dag2 =>
    have hidx : (dagIdx .dag2 n).val = 4 + n.toNat := Nat.mod_eq_of_lt (by omega)
    simp [hidx]

theorem rev14_getLsbD (a : Addr) {k : Nat} (hk : k < 14) : (rev14 a).getLsbD k = a.getLsbD (13 - k) := by
  rw [rev14, BitVec.getLsbD_reverse, BitVec.getMsbD]
  simp [hk]

theorem addrOut_reversed (n : BitVec 2) {s : State} (h : bitRev s = true) :
    addrOut s (dagIdx .dag1 n) = rev14 s.dag.i[dagIdx .dag1 n] := by
  simp [addrOut, h, dagIdx_lt_four]

theorem addrOut_plain {g : DagSel} (n : BitVec 2) {s : State} (h : g = .dag2 ∨ bitRev s = false) :
    addrOut s (dagIdx g n) = s.dag.i[dagIdx g n] := by
  obtain rfl | h := h
  · simp [addrOut, dagIdx_lt_four]
  · simp [addrOut, h]

/-! The post-modify. -/

/-- With length 0 the I register is stepped by the M register modulo 2^14 (R91). -/
theorem postModify_linear_i {a b : DagIdx} {s : State} (h : s.dag.l[a] = 0) :
    (postModify a b s).dag.i[a] = s.dag.i[a] + s.dag.m[b] := by
  rw [postModify_linear h]
  exact Vector.getElem_set_self a.isLt

/-- The modes have no part in a post-modify: it neither reads MSTAT nor writes it (R91). -/
theorem postModify_setMstat (a b : DagIdx) (v : BitVec 7) (s : State) :
    postModify a b (setMstat v s) = setMstat v (postModify a b s) := by
  rw [postModify_eq, postModify_eq, apply_ite (setMstat v)]
  rfl

@[simp] theorem postModify_mstat (a b : DagIdx) (s : State) : (postModify a b s).mstat = s.mstat := by
  rw [postModify_eq]; split <;> rfl

@[simp] theorem postModify_mem (a b : DagIdx) (s : State) : (postModify a b s).mem = s.mem := by
  rw [postModify_eq]; split <;> rfl

theorem exec_modify (g : DagSel) (i m : BitVec 2) (s : State) :
    exec (.modify g i m) s = .next (postModify (dagIdx g i) (dagIdx g m) s) := rfl

/-- Settles O31: MODIFY is the post-modify of an indirect access without the access. -/
theorem modifyAddress : Obligations.ModifyAddress := fun g i m s =>
  ⟨_, postModify_modified (dagIdx g i) (dagIdx g m) s, exec_modify g i m s⟩

/-- An immediate store to RAM through linear addressing: the word goes to the address that is output, and the I
register itself is post-modified (R93, R298). -/
theorem exec_writeDmImm_linear (g : DagSel) (v : Word) (i m : BitVec 2) {s : State}
    (hram : regionKind s.cfg.dmMap (addrOut s (dagIdx g i)).toNat = some .ram) (hlin : s.dag.l[dagIdx g i] = 0) :
    ∃ t, exec (.writeDmImm g v i m) s = .next t ∧
      t.mem.dm.read (addrOut s (dagIdx g i)).toNat = some v ∧
      t.dag.i[dagIdx g i] = s.dag.i[dagIdx g i] + s.dag.m[dagIdx g m] := by
  have hwrite := writeDm_eq_ok (v := v).mpr (.inl ⟨hram, rfl⟩)
  refine ⟨_, answer_eq_next.mpr (storeDmInd_of_write hwrite), ?_, postModify_linear_i hlin⟩
  rw [postModify_mem]
  exact Memory.read_write_same _ _ v

/-- Settles O32: the mode BIT_REV acts on the address that is output and on nothing else. -/
theorem bitReversedAddress : Obligations.BitReversedAddress := by
  intro g i m s
  refine ⟨?_, addrOut_plain i, fun v => exec_writeDmImm_linear g v i m, _, exec_modify g i m s, ?_⟩
  · rintro rfl hrev k hk
    rw [addrOut_reversed i hrev, rev14_getLsbD _ hk]
  · have hmode := postModify_setMstat (dagIdx g i) (dagIdx g m) (s.mstat ^^^ 2#7) s
    rw [postModify_mstat]
    exact congrArg Host.Outcome.next hmode

/-! Mode control (R380). -/

/-- A mode-control field acts on its own bit of MSTAT and on no other. -/
theorem modeAfter_getLsbD (v : BitVec 7) {k j : Nat} (op : ModeOp) (hj : j < 7) :
    (modeAfter v k op).getLsbD j = if j = k then modeBit op (v.getLsbD j) else v.getLsbD j := by
  have hbit : (1#7 <<< k).getLsbD j = decide (j = k) := by
    rw [BitVec.getLsbD_shiftLeft, BitVec.getLsbD_one, Bool.eq_iff_iff]
    simp [hj]
    omega
  cases op with
  | keep | keepAlt => exact (ite_self _).symm
  | dis =>
    rw [modeAfter, BitVec.getLsbD_and, BitVec.getLsbD_not, hbit]
    by_cases h : j = k <;> simp [h, hj, modeBit]
  | ena =>
    rw [modeAfter, BitVec.getLsbD_or, hbit]
    by_cases h : j = k <;> simp [h, modeBit]

/-- Settles O38: the seven fields act on seven different bits. -/
theorem modeControl : Obligations.ModeControl := by
  intro ti mm sat ol br sr gm s
  refine ⟨modesAfter ti mm sat ol br sr gm s.mstat, rfl, ?_⟩
  simp [modesAfter, modeAfter_getLsbD, -BitVec.getLsbD_eq_getElem]

end Sys2Proof.Machine
end

section
/-! The global interrupt enable (`45_misc.md` R390, R391): the shared operations leave INTS as it was, most of them the
whole interrupt unit, and so does every instruction but ENA INTS and DIS INTS. -/

namespace Sys2Proof.Machine

/-! The operations that always succeed leave the interrupt unit alone. -/

@[simp] theorem postModify_int (a b : DagIdx) (s : State) : (postModify a b s).int = s.int := by
  rw [postModify_eq]; split <;> rfl
@[simp] theorem writeDreg_int (d : DReg) (v : Word) (s : State) : (writeDreg d v s).int = s.int := setBank_int _ s
@[simp] theorem writeAlu_int (z : Dest) (o : AluOut) (s : State) : (writeAlu z o s).int = s.int := by
  cases z with
  | feedback => simp [writeAlu]
  | result => simp only [writeAlu]; split <;> simp
@[simp] theorem aluStep_int (f : AluFn) (z : Dest) (x y : Word) (s : State) : (aluStep f z x y s).int = s.int := by
  simp [aluStep]
@[simp] theorem passConstStep_int (z : Dest) (v : Word) (s : State) : (passConstStep z v s).int = s.int := by
  cases z <;> simp [passConstStep]
@[simp] theorem writeDiv_int (o : DivOut) (s : State) : (writeDiv o s).int = s.int := by simp [writeDiv]
@[simp] theorem aluStatusStep_int (f : AluFn) (x y : Word) (s : State) : (aluStatusStep f x y s).int = s.int := by
  simp [aluStatusStep]
@[simp] theorem macOp_int (f : MacFn) (z : Dest) (x y : Word) (s : State) : (macOp f z x y s).int = s.int := by
  cases z <;> simp [macOp, writeMac]
@[simp] theorem writeSr_int (o : Bool) (v : BitVec 32) (s : State) : (writeSr o v s).int = s.int := by simp [writeSr]
@[simp] theorem writeExp_int (se : BitVec 8) (sign : Bool) (s : State) : (writeExp se sign s).int = s.int := by
  simp [writeExp]
@[simp] theorem shiftOp_int (f : ShiftFn) (x : Word) (s : State) : (shiftOp f x s).int = s.int := by
  cases f with
  | expHix => simp only [shiftOp, expHix, expHi]; split <;> simp
  | expadj => simp only [shiftOp, expAdj]; split <;> simp
  | _ => simp [shiftOp, expHi, expLo]
@[simp] theorem computeOp_int (z : Dest) (op : AluMac) (s : State) : (computeOp z op s).int = s.int := by
  cases op <;> simp [computeOp]
@[simp] theorem computeShift_int (f : ShiftFn) (x : ShiftXop) (s : State) : (computeShift f x s).int = s.int :=
  shiftOp_int f _ s
@[simp] theorem drivePins_int (fl2 fl1 fl0 fo : PinOp) (s : State) : (drivePins fl2 fl1 fl0 fo s).int = s.int := by
  rw [drivePins_eq]

/-! The reads leave it alone as well. -/

theorem readDm_int {a : Addr} {s t : State} {v : Word} (h : readDm a s = .ok (v, t)) : t.int = s.int := by
  obtain ⟨-, -, rfl⟩ | ⟨-, -, rfl⟩ := readDm_eq_ok.mp h <;> rfl

theorem readPm_int {a : Addr} {s t : State} {p : PmWord} (h : readPm a s = .ok (p, t)) : t.int = s.int := by
  obtain ⟨-, -, rfl⟩ | ⟨-, -, rfl⟩ := readPm_eq_ok.mp h <;> rfl

theorem readIoSpace_int {a : IoAddr} {s t : State} {v : Word} (h : readIoSpace a s = .ok (v, t)) :
    t.int = s.int := by
  obtain ⟨-, -, rfl⟩ := readIoSpace_eq_ok.mp h
  rfl

theorem readReg_int {w : PmWord} {r : Reg} {s t : State} {v : Word} (h : readReg w r s = .ok (v, t)) :
    t.int = s.int := by
  cases r with
  | ifc | owrcntr => simp [readReg] at h
  | _ => cases h; rfl

theorem popPc_int {a : Addr} {s t : State} (h : popPc s = .ok (a, t)) : t.int = s.int := by
  obtain ⟨rest, -, rfl⟩ := popPc_eq_ok.mp h
  rfl

theorem popLoop_int {e : LoopEntry} {s t : State} (h : popLoop s = .ok (e, t)) : t.int = s.int := by
  obtain ⟨rest, -, rfl⟩ := popLoop_eq_ok.mp h
  rfl

/-! Answers. -/

/-- Where `r` answers a next state, INTS is what it is in `s`. -/
def KeepsInts (s : State) (r : Answer) : Prop := ∀ t, r = .next t → t.int.ints = s.int.ints

theorem keepsInts_next {s t : State} (h : t.int = s.int) : KeepsInts s (.next t) := by
  rintro u hu
  cases hu
  rw [h]

theorem keepsInts_fault (s : State) (f : Fault) : KeepsInts s (.fault f) := by
  rintro t ⟨⟩

theorem keepsInts_ite {s : State} {p : Prop} [Decidable p] {r q : Answer} (hr : KeepsInts s r)
    (hq : KeepsInts s q) : KeepsInts s (if p then r else q) := by
  split
  · exact hr
  · exact hq

/-- An instruction of some members of the family, or on some registers, and a fault elsewhere. -/
theorem keepsInts_if {s : State} {p : Prop} [Decidable p] {r : Answer} {f : Fault} (hr : KeepsInts s r) :
    KeepsInts s (if p then r else .fault f) :=
  keepsInts_ite hr (keepsInts_fault s f)

/-- A read, and what is done with the value and the state it gives. -/
theorem keepsInts_read {α : Type} {s : State} {x : Result (α × State)} {f : α × State → Result State}
    (hx : ∀ v u, x = .ok (v, u) → u.int = s.int) (hf : ∀ v u, KeepsInts u (answer (f (v, u)))) :
    KeepsInts s (answer (x >>= f)) := by
  intro t ht
  obtain ⟨⟨v, u⟩, hu, ht⟩ := result_bind_eq_ok.mp (answer_eq_next.mp ht)
  rw [hf v u t (answer_eq_next.mpr ht), hx v u hu]

/-- One operation after another. -/
theorem keepsInts_seq {s : State} {x : Result State} {f : State → Result State} (hx : KeepsInts s (answer x))
    (hf : ∀ u, KeepsInts u (answer (f u))) : KeepsInts s (answer (x >>= f)) := by
  intro t ht
  obtain ⟨u, hu, ht⟩ := result_bind_eq_ok.mp (answer_eq_next.mp ht)
  rw [hf u t (answer_eq_next.mpr ht), hx u (answer_eq_next.mpr hu)]

/-- An operation behind a test or a value that does not change the state. -/
theorem keepsInts_after {α : Type} {s : State} {x : Result α} {f : α → Result State}
    (hf : ∀ v, KeepsInts s (answer (f v))) : KeepsInts s (answer (x >>= f)) := by
  intro t ht
  obtain ⟨v, -, ht⟩ := result_bind_eq_ok.mp (answer_eq_next.mp ht)
  exact hf v t (answer_eq_next.mpr ht)

theorem keepsInts_ifCond {c : Cond} {op : State → Result State} (h : ∀ u, KeepsInts u (answer (op u))) (s : State) :
    KeepsInts s (answer (ifCond c op s)) := by
  intro t ht
  obtain ⟨-, ht⟩ | ⟨-, rfl⟩ := ifCond_eq_ok.mp (answer_eq_next.mp ht)
  · rw [h _ t (answer_eq_next.mpr ht), afterCond_int]
  · rw [afterCond_int]

/-- A conditional operation that always succeeds. -/
theorem keepsInts_ifCond_ok {c : Cond} {f : State → State} (h : ∀ u, (f u).int = u.int) (s : State) :
    KeepsInts s (answer (ifCond c (fun u => .ok (f u)) s)) :=
  keepsInts_ifCond (op := fun u => .ok (f u)) (fun u => keepsInts_next (h u)) s

theorem keepsInts_unlessClash {w : PmWord} {clash : Bool} {s : State} {r : Result State}
    (h : KeepsInts s (answer r)) : KeepsInts s (answer (unlessClash w clash r)) :=
  fun t ht => h t (answer_eq_next.mpr (unlessClash_eq_ok.mp (answer_eq_next.mp ht)).2)

/-! The stacks. -/

theorem pushPc_keepsInts (a : Addr) (s : State) : KeepsInts s (answer (pushPc a s)) := by
  intro t h
  obtain ⟨-, rfl⟩ := pushPc_eq_ok.mp (answer_eq_next.mp h)
  rfl

theorem callTo_keepsInts (a : Addr) (s : State) : KeepsInts s (answer (callTo a s)) :=
  keepsInts_after fun _ => keepsInts_seq (pushPc_keepsInts _ s) fun _ => keepsInts_next rfl

theorem returnFromSub_keepsInts (s : State) : KeepsInts s (answer (returnFromSub s)) :=
  keepsInts_after fun _ => keepsInts_read (fun _ _ => popPc_int) fun _ _ => keepsInts_next rfl

/-- POP STS restores IMASK, the one part of the interrupt unit that is saved (R58, D19). -/
theorem popSts_keepsInts (s : State) : KeepsInts s (answer (popSts s)) := by
  intro t h
  obtain ⟨e, rest, -, rfl⟩ := popSts_eq_ok.mp (answer_eq_next.mp h)
  rfl

theorem returnFromInterrupt_keepsInts (s : State) : KeepsInts s (answer (returnFromInterrupt s)) :=
  keepsInts_after fun _ => keepsInts_read (fun _ _ => popPc_int) fun _ u =>
    keepsInts_seq (popSts_keepsInts u) fun _ => keepsInts_next rfl

theorem enterLoop_keepsInts (a : Addr) (term : Term) (s : State) : KeepsInts s (answer (enterLoop a term s)) := by
  refine keepsInts_after fun _ t ht => ?_
  dsimp only at ht
  split at ht
  · cases ht; rfl
  · split at ht
    · cases ht
    · cases ht; rfl

theorem optionally_keepsInts {b : Bool} {op : State → Result State} {s : State} (h : KeepsInts s (answer (op s))) :
    KeepsInts s (answer (optionally b op s)) := by
  cases b with
  | false => exact keepsInts_next rfl
  | true => exact h

theorem stsAction_keepsInts (sp : StsOp) (s : State) : KeepsInts s (answer (stsAction sp s)) := by
  cases sp with
  | keep | keepAlt => exact keepsInts_next rfl
  | pop => exact popSts_keepsInts s
  | push =>
    intro t h
    obtain ⟨-, rfl⟩ := pushSts_eq_ok.mp (answer_eq_next.mp h)
    rfl

theorem popCntr_keepsInts (s : State) : KeepsInts s (answer (popCntr s)) := by
  intro t h
  obtain ⟨v, rest, -, rfl⟩ := popCntr_eq_ok.mp (answer_eq_next.mp h)
  rfl

theorem dropPc_keepsInts (s : State) : KeepsInts s (answer (dropPc s)) :=
  keepsInts_after fun _ => keepsInts_read (fun _ _ => popPc_int) fun _ _ => keepsInts_next rfl

theorem dropLoop_keepsInts (s : State) : KeepsInts s (answer (dropLoop s)) :=
  keepsInts_read (fun _ _ => popLoop_int) fun _ _ => keepsInts_next rfl

theorem controlStacks_keepsInts (pp lp cp : Bool) (sp : StsOp) (s : State) :
    KeepsInts s (answer (controlStacks pp lp cp sp s)) :=
  keepsInts_seq (stsAction_keepsInts sp s) fun s => keepsInts_seq (optionally_keepsInts (popCntr_keepsInts s))
    fun s => keepsInts_seq (optionally_keepsInts (dropPc_keepsInts s)) fun s =>
      optionally_keepsInts (dropLoop_keepsInts s)

/-! Registers and memory. -/

/-- A write of IMASK, ICNTL or IFC replaces that part of the interrupt unit; no register holds INTS (R31, R61). -/
theorem writeReg_keepsInts (w : PmWord) (d : Reg) (v : Word) (s : State) : KeepsInts s (answer (writeReg w d v s)) := by
  intro t h
  rw [answer_eq_next] at h
  cases d with
  | sstat => simp [writeReg] at h
  | cntr => obtain ⟨-, -, rfl⟩ | ⟨-, rfl⟩ := loadCntr_eq_ok.mp h <;> rfl
  | dreg d => cases h; rw [writeDreg_int]
  | sb => cases h; rw [setBank_int]
  | _ => cases h; rfl

theorem writeDm_keepsInts (a : Addr) (v : Word) (s : State) : KeepsInts s (answer (writeDm a v s)) := by
  intro t h
  obtain ⟨-, rfl⟩ | ⟨-, rfl⟩ := writeDm_eq_ok.mp (answer_eq_next.mp h) <;> rfl

theorem writePm_keepsInts (a : Addr) (v : PmWord) (s : State) : KeepsInts s (answer (writePm a v s)) := by
  intro t h
  obtain ⟨-, rfl⟩ | ⟨-, rfl⟩ := writePm_eq_ok.mp (answer_eq_next.mp h) <;> rfl

theorem writeIoSpace_keepsInts (a : IoAddr) (v : Word) (s : State) : KeepsInts s (answer (writeIoSpace a v s)) := by
  intro t h
  obtain ⟨-, rfl⟩ := writeIoSpace_eq_ok.mp (answer_eq_next.mp h)
  rfl

/-! The moves, alone and beside a computation. -/

theorem topToReg_keepsInts (w : PmWord) (d : Reg) (s : State) : KeepsInts s (answer (topToReg w d s)) :=
  keepsInts_after fun _ => keepsInts_after fun _ =>
    keepsInts_seq (writeReg_keepsInts w d _ s) fun _ => keepsInts_next rfl

theorem regToTop_keepsInts (w : PmWord) (r : Reg) (s : State) : KeepsInts s (answer (regToTop w r s)) :=
  keepsInts_after fun _ => keepsInts_read (fun _ _ => readReg_int) fun _ u => pushPc_keepsInts _ u

theorem regToReg_keepsInts (w : PmWord) (d r : Reg) (s : State) : KeepsInts s (answer (regToReg w d r s)) :=
  keepsInts_read (fun _ _ => readReg_int) fun v u => writeReg_keepsInts w d v u

theorem dmToReg_keepsInts (w : PmWord) (a : Addr) (d : Reg) (s : State) : KeepsInts s (answer (dmToReg w a d s)) :=
  keepsInts_read (fun _ _ => readDm_int) fun v u => writeReg_keepsInts w d v u

theorem regToDm_keepsInts (w : PmWord) (a : Addr) (r : Reg) (s : State) : KeepsInts s (answer (regToDm w a r s)) :=
  keepsInts_read (fun _ _ => readReg_int) fun v u => writeDm_keepsInts a v u

theorem ioToDreg_keepsInts (a : IoAddr) (d : DReg) (s : State) : KeepsInts s (answer (ioToDreg a d s)) :=
  keepsInts_read (fun _ _ => readIoSpace_int) fun v u => keepsInts_next (writeDreg_int d v u)

section
variable {compute : State → State} (hc : ∀ s, (compute s).int = s.int)
include hc

theorem loadDmInd_keepsInts (d : DReg) (a b : DagIdx) (s : State) :
    KeepsInts s (answer (loadDmInd compute d a b s)) :=
  keepsInts_read (fun _ _ => readDm_int) fun _ _ => keepsInts_next (by simp [hc])

theorem loadPmInd_keepsInts (d : DReg) (a b : DagIdx) (s : State) :
    KeepsInts s (answer (loadPmInd compute d a b s)) :=
  keepsInts_read (fun _ _ => readPm_int) fun _ _ => keepsInts_next (by simp [hc])

theorem storeDmInd_keepsInts (v : Word) (a b : DagIdx) (s : State) :
    KeepsInts s (answer (storeDmInd compute v a b s)) :=
  keepsInts_seq (writeDm_keepsInts _ v s) fun _ => keepsInts_next (by simp [hc])

theorem storePmInd_keepsInts (v : Word) (a b : DagIdx) (s : State) :
    KeepsInts s (answer (storePmInd compute v a b s)) :=
  keepsInts_seq (writePm_keepsInts _ _ s) fun _ => keepsInts_next (by simp [hc])

theorem dualLoad_keepsInts (pd : PmDest) (dd : DmDest) (ap bp ad bd : DagIdx) (s : State) :
    KeepsInts s (answer (dualLoad compute pd dd ap bp ad bd s)) :=
  keepsInts_read (fun _ _ => readPm_int) fun _ _ =>
    keepsInts_read (fun _ _ => readDm_int) fun _ _ => keepsInts_next (by simp [hc])

theorem moveBeside_int (d r : DReg) (s : State) : (moveBeside compute d r s).int = s.int := by
  simp [moveBeside, hc]

end

/-! The instructions. -/

theorem execCompMove_keepsInts (z : Dest) (op : Option AluMac) (d r : DReg) (s : State) :
    KeepsInts s (execCompMove z op d r s) := by
  cases op with
  | none => exact keepsInts_if (keepsInts_next (moveBeside_int (fun _ => rfl) d r s))
  | some op => exact keepsInts_unlessClash (keepsInts_next (moveBeside_int (computeOp_int z op) d r s))

/-- Every instruction but ENA INTS and DIS INTS leaves INTS as it was. -/
theorem exec_keepsInts (i : Instr) (s : State) (hena : i ≠ .enaInts) (hdis : i ≠ .disInts) :
    KeepsInts s (exec i s) := by
  cases i with
  | enaInts => exact absurd rfl hena
  | disInts => exact absurd rfl hdis
  | aluPassY | aluIncY | aluAddC | aluAdd | aluNotY | aluNegY | aluSubXYBorrow | aluSubXY | aluDecY | aluSubYX
  | aluSubYXBorrow | aluNotX | aluAnd | aluOr | aluXor | aluAbs =>
    exact keepsInts_ifCond_ok (fun u => aluStep_int _ _ _ _ u) s
  | aluAddK | aluAddKC | aluSubXK | aluSubXKBorrow | aluSubKX | aluSubKXBorrow | aluTstbit | aluClrbit | aluSetbit
  | aluOrNotBit | aluTglbit | aluXorNotBit | aluNotK | aluNegK | aluNotXK | aluAbsK =>
    exact keepsInts_if (keepsInts_ifCond_ok (fun u => aluStep_int _ _ _ _ u) s)
  | aluPassK | aluPassKInc | aluPassKDec => exact keepsInts_if (keepsInts_ifCond_ok (passConstStep_int _ _) s)
  | divs | divq => exact keepsInts_next (writeDiv_int _ s)
  | noneAlu => exact keepsInts_if (keepsInts_next (aluStatusStep_int _ _ _ s))
  | macMulRnd | macMulSs | macMulSu | macMulUs | macMulUu | macAddRnd | macAddSs | macAddSu | macAddUs | macAddUu
  | macSubRnd | macSubSs | macSubSu | macSubUs | macSubUu => exact keepsInts_ifCond_ok (fun u => macOp_int _ _ _ _ u) s
  | macSqrMulRnd | macSqrMulSs | macSqrMulUu | macSqrAddRnd | macSqrAddSs | macSqrAddUu | macSqrSubRnd | macSqrSubSs
  | macSqrSubUu => exact keepsInts_if (keepsInts_ifCond_ok (fun u => macOp_int _ _ _ _ u) s)
  | satMr => exact keepsInts_ite (keepsInts_next (setBank_int _ s)) (keepsInts_next rfl)
  | lshiftHi | lshiftHiOr | lshiftLo | lshiftLoOr | ashiftHi | ashiftHiOr | ashiftLo | ashiftLoOr | normHi | normHiOr
  | normLo | normLoOr | expHi | expHix | expLo | expadj =>
    exact keepsInts_ifCond_ok (fun u => shiftOp_int _ _ u) s
  | lshiftImmHi | lshiftImmHiOr | lshiftImmLo | lshiftImmLoOr | ashiftImmHi | ashiftImmHiOr | ashiftImmLo
  | ashiftImmLoOr => exact keepsInts_next (writeSr_int _ _ s)
  | moveFromTop d => exact keepsInts_if (topToReg_keepsInts _ d s)
  | moveToTop r => exact keepsInts_if (regToTop_keepsInts _ r s)
  | moveReg d r => exact regToReg_keepsInts _ d r s
  | loadDreg v d => exact keepsInts_next (writeDreg_int d v s)
  | loadReg v d => exact keepsInts_ite (keepsInts_fault s _) (writeReg_keepsInts _ d _ s)
  | readDm a d => exact dmToReg_keepsInts _ a d s
  | writeDm a r => exact regToDm_keepsInts _ a r s
  | readDmInd => exact loadDmInd_keepsInts (fun _ => rfl) _ _ _ s
  | writeDmInd | writeDmImm => exact storeDmInd_keepsInts (fun _ => rfl) _ _ _ s
  | readPmInd => exact loadPmInd_keepsInts (fun _ => rfl) _ _ _ s
  | writePmInd => exact storePmInd_keepsInts (fun _ => rfl) _ _ _ s
  | readIo a d => exact keepsInts_if (ioToDreg_keepsInts a d s)
  | writeIo a r => exact keepsInts_if (writeIoSpace_keepsInts a _ s)
  | jump | jumpInd => exact keepsInts_ifCond_ok (fun u => transferTo_int _ u) s
  | call | callInd => exact keepsInts_ifCond (fun u => callTo_keepsInts _ u) s
  | jumpFlag => exact keepsInts_ite (keepsInts_next rfl) (keepsInts_next rfl)
  | callFlag a => exact keepsInts_ite (callTo_keepsInts a s) (keepsInts_next rfl)
  | flagOut => exact keepsInts_ite (keepsInts_fault s _) (keepsInts_ifCond_ok (drivePins_int _ _ _ _) s)
  | rts => exact keepsInts_ifCond returnFromSub_keepsInts s
  | rti => exact keepsInts_ifCond returnFromInterrupt_keepsInts s
  | doUntil a term => exact enterLoop_keepsInts a term s
  | idle | idleN => rintro t ⟨⟩; rfl
  | stackControl pp lp cp sp => exact controlStacks_keepsInts pp lp cp sp s
  | modeControl | nop => exact keepsInts_next rfl
  | modify => exact keepsInts_next (postModify_int _ _ s)
  | compReadDm => exact keepsInts_unlessClash (loadDmInd_keepsInts (computeOp_int _ _) _ _ _ s)
  | compReadPm => exact keepsInts_unlessClash (loadPmInd_keepsInts (computeOp_int _ _) _ _ _ s)
  | shiftReadDm => exact keepsInts_unlessClash (loadDmInd_keepsInts (computeShift_int _ _) _ _ _ s)
  | shiftReadPm => exact keepsInts_unlessClash (loadPmInd_keepsInts (computeShift_int _ _) _ _ _ s)
  | compMove z op d r => exact execCompMove_keepsInts z op d r s
  | shiftMove => exact keepsInts_unlessClash (keepsInts_next (moveBeside_int (computeShift_int _ _) _ _ s))
  | compWriteDm => exact storeDmInd_keepsInts (computeOp_int _ _) _ _ _ s
  | compWritePm => exact storePmInd_keepsInts (computeOp_int _ _) _ _ _ s
  | shiftWriteDm => exact storeDmInd_keepsInts (computeShift_int _ _) _ _ _ s
  | shiftWritePm => exact storePmInd_keepsInts (computeShift_int _ _) _ _ _ s
  | dualRead => exact dualLoad_keepsInts (fun _ => rfl) _ _ _ _ _ _ s
  | compDualRead => exact dualLoad_keepsInts (computeOp_int .result _) _ _ _ _ _ _ s
  | unused => exact keepsInts_fault s _

theorem exec_enaInts {s : State} (h : s.cfg.member.hasExt = true) : exec .enaInts s = .next (setInts true s) :=
  needsExt_of (fun t => .next (setInts true t)) h

theorem exec_disInts {s : State} (h : s.cfg.member.hasExt = true) : exec .disInts s = .next (setInts false s) :=
  needsExt_of (fun t => .next (setInts false t)) h

/-- With INTS clear no interrupt is taken, where the member has INTS (R61, D3). -/
theorem interruptToTake_disabled {s : State} (h : s.cfg.member.hasExt = true) (hints : s.int.ints = false) :
    interruptToTake s = none := by
  simp [interruptToTake, intsEnabled, h, hints]

/-- Settles O39: the two instructions write INTS alone, and no operation the others share writes it. -/
theorem interruptEnable : Obligations.InterruptEnable := fun s =>
  ⟨fun hext => ⟨exec_enaInts hext, exec_disInts hext, interruptToTake_disabled hext⟩,
    fun i t hena hdis h => exec_keepsInts i s hena hdis t h⟩

end Sys2Proof.Machine
end

section
/-! The obligations of `46_multifunction.md`: a multifunction instruction is the transfer of `43_move.md` with one
computation between its memory access and its register writes. Each shape of transfer is settled once, for any clause
`compute` that is the meaning of a single-function instruction `form`. -/

namespace Sys2Proof.Machine

open Claims

/-- Clauses that write different registers leave the operation as it is. -/
theorem answer_unlessClash_of_ok {w : PmWord} {clash : Bool} {r : Result State} {t : State} (hclash : clash = false)
    (h : r = .ok t) : answer (unlessClash w clash r) = .next t :=
  answer_eq_next.mpr (unlessClash_eq_ok.mpr ⟨hclash, h⟩)

/-! The dual reads. -/

/-- A read of program memory leaves every location of data memory as readable as it was. -/
theorem dmReadable_of_pmReads {s u : State} {a b : Addr} {p : PmWord} (h : PmReads s a p u) (hb : dmReadable s b) :
    dmReadable u b := by
  rcases h with ⟨-, -, rfl⟩ | ⟨-, rfl⟩
  · exact hb
  · exact hb

theorem dualLoad_of_reads {compute : State → State} {pd : PmDest} {dd : DmDest} {ap bp ad bd : DagIdx} {p : PmWord}
    {v : Word} {s s1 s2 : State} (hpm : readPm (addrOut s ap) s = .ok (p, s1))
    (hdm : readDm (addrOut s ad) s1 = .ok (v, s2)) :
    dualLoad compute pd dd ap bp ad bd s =
      .ok (postModify ap bp (postModify ad bd (setPx (p.extractLsb' 0 8)
        (writeDreg (pmDestReg pd) (p.extractLsb' 8 16) (writeDreg (dmDestReg dd) v (compute s2)))))) := by
  simp [dualLoad, hpm, hdm]

/-- The DM word goes to the X register, the PM word to the Y register and PX, and both I registers move on (R415). -/
theorem dualLoaded_postModify (pd : PmDest) (dd : DmDest) (ap bp ad bd : DagIdx) (p : PmWord) (v : Word) (u : State) :
    DualLoaded pd dd ap bp ad bd p v u
      (postModify ap bp (postModify ad bd (setPx (p.extractLsb' 0 8)
        (writeDreg (pmDestReg pd) (p.extractLsb' 8 16) (writeDreg (dmDestReg dd) v u))))) := by
  rw [pmHigh, pmLow]
  exact ⟨_, _, _, writeDreg_written _ v u, writeDreg_written _ _ _, postModify_modified ad bd _,
    postModify_modified ap bp _⟩

/-- A dual read, with any computation between the reads and the loads. -/
theorem dualLoad_loads (compute : State → State) (pd : PmDest) (dd : DmDest) {ap ad : DagIdx} (bp bd : DagIdx)
    {s : State} (hp : pmReadable s (addrOut s ap)) (hd : dmReadable s (addrOut s ad)) :
    ∃ p v s1 s2 t, PmReads s (addrOut s ap) p s1 ∧ DmReads s1 (addrOut s ad) v s2 ∧
      DualLoaded pd dd ap bp ad bd p v (compute s2) t ∧
      answer (dualLoad compute pd dd ap bp ad bd s) = .next t := by
  obtain ⟨p, s1, hreadPm, hpmReads⟩ := readPm_reads s _ hp
  obtain ⟨v, s2, hreadDm, hdmReads, -⟩ := readDm_reads s1 _ (dmReadable_of_pmReads hpmReads hd)
  exact ⟨p, v, s1, s2, _, hpmReads, hdmReads, dualLoaded_postModify pd dd ap bp ad bd p v _,
    answer_eq_next.mpr (dualLoad_of_reads hreadPm hreadDm)⟩

/-! The transfers beside a computation. -/

section
variable {form : Instr} {compute : State → State} (hform : ∀ s, exec form s = .next (compute s))
include hform

/-- The source is read before the computation, the destination written after it. -/
theorem moveBeside_moves {w : PmWord} {clash : Bool} (d r : DReg) (s : State) (hclash : clash = false) :
    ∃ u t, exec form s = .next u ∧ DregWritten d (dregVal r (activeBank s)) u t ∧
      answer (unlessClash w clash (.ok (moveBeside compute d r s))) = .next t :=
  ⟨_, _, hform s, writeDreg_written d _ _, answer_unlessClash_of_ok hclash rfl⟩

theorem loadDmInd_loads {w : PmWord} {clash : Bool} (d : DReg) {a : DagIdx} (b : DagIdx) {s : State}
    (ha : dmReadable s (addrOut s a)) (hclash : clash = false) :
    ∃ v s1 u u1 t, DmReads s (addrOut s a) v s1 ∧ exec form s1 = .next u ∧ DregWritten d v u u1 ∧
      PostModified a b u1 t ∧ answer (unlessClash w clash (loadDmInd compute d a b s)) = .next t := by
  obtain ⟨v, s1, hread, hreads, -⟩ := readDm_reads s _ ha
  exact ⟨v, s1, _, _, _, hreads, hform s1, writeDreg_written d v _, postModify_modified a b _,
    answer_unlessClash_of_ok hclash (loadDmInd_of_read hread)⟩

theorem loadPmInd_loads {w : PmWord} {clash : Bool} (d : DReg) {a : DagIdx} (b : DagIdx) {s : State}
    (ha : pmReadable s (addrOut s a)) (hclash : clash = false) :
    ∃ p s1 u t, PmReads s (addrOut s a) p s1 ∧ exec form s1 = .next u ∧ PmLoaded d a b p u t ∧
      answer (unlessClash w clash (loadPmInd compute d a b s)) = .next t := by
  obtain ⟨p, s1, hread, hreads⟩ := readPm_reads s _ ha
  exact ⟨p, s1, _, _, hreads, hform s1, pmLoaded_postModify d a b p _,
    answer_unlessClash_of_ok hclash (loadPmInd_of_read hread)⟩

/-- The value is stored before the computation runs; a store clashes with no computation. -/
theorem storeDmInd_stores_beside (v : Word) {a : DagIdx} (b : DagIdx) {s : State} (ha : dmWritable s (addrOut s a)) :
    ∃ s1 u t, DmWrites s (addrOut s a) v s1 ∧ exec form s1 = .next u ∧ PostModified a b u t ∧
      answer (storeDmInd compute v a b s) = .next t := by
  obtain ⟨s1, hwrite, hwrites⟩ := writeDm_writes s _ v ha
  exact ⟨s1, _, _, hwrites, hform s1, postModify_modified a b _, answer_eq_next.mpr (storeDmInd_of_write hwrite)⟩

theorem storePmInd_stores_beside (v : Word) {a : DagIdx} (b : DagIdx) {s : State} (ha : pmWritable s (addrOut s a)) :
    ∃ s1 u t, PmWrites s (addrOut s a) (pmWordOf v s.px) s1 ∧ exec form s1 = .next u ∧ PostModified a b u t ∧
      answer (storePmInd compute v a b s) = .next t := by
  obtain ⟨s1, hwrite, hwrites⟩ := writePm_writes s _ (pmWordOf v s.px) ha
  exact ⟨s1, _, _, hwrites, hform s1, postModify_modified a b _, answer_eq_next.mpr (storePmInd_of_write hwrite)⟩

end

/-! The obligations. -/

/-- Settles O42: the move beside an ALU or MAC clause, beside a shifter clause, and alone. -/
theorem computeWithMove : Obligations.ComputeWithMove := fun d r s =>
  ⟨fun z op h => moveBeside_moves (exec_clauseForm z op) d r s ((clashes_computeDests z op d).trans h),
    fun f x h => moveBeside_moves (exec_shiftForm f x) d r s ((clashes_shiftDests f d).trans h),
    ⟨_, writeDreg_written d _ s, rfl⟩⟩

/-- Settles O43: the DM and the PM read, each beside an ALU or MAC clause and beside a shifter clause. -/
theorem computeWithRead : Obligations.ComputeWithRead := by
  intro g d i m s
  refine ⟨fun ha => ⟨fun z op h => ?_, fun f x h => ?_⟩, fun ha => ⟨fun z op h => ?_, fun f x h => ?_⟩⟩
  · exact loadDmInd_loads (exec_clauseForm z op) d _ ha ((clashes_computeDests z op d).trans h)
  · exact loadDmInd_loads (exec_shiftForm f x) d _ ha ((clashes_shiftDests f d).trans h)
  · exact loadPmInd_loads (exec_clauseForm z op) d _ ha ((clashes_computeDests z op d).trans h)
  · exact loadPmInd_loads (exec_shiftForm f x) d _ ha ((clashes_shiftDests f d).trans h)

/-- Settles O44: the value stored is the register of the state before, in DM or over PX in PM. -/
theorem computeWithWrite : Obligations.ComputeWithWrite := by
  intro g r i m s
  refine ⟨fun ha => ⟨fun z op => ?_, fun f x => ?_⟩, fun ha => ⟨fun z op => ?_, fun f x => ?_⟩⟩
  · exact storeDmInd_stores_beside (exec_clauseForm z op) _ _ ha
  · exact storeDmInd_stores_beside (exec_shiftForm f x) _ _ ha
  · exact storePmInd_stores_beside (exec_clauseForm z op) _ _ ha
  · exact storePmInd_stores_beside (exec_shiftForm f x) _ _ ha

/-- Settles O45: the dual read with no computation between the reads and the loads, and with a clause to AR or MR. -/
theorem dualReads : Obligations.DualReads := by
  intro pd dd pi pm di dm s hp hd
  refine ⟨dualLoad_loads id pd dd _ _ hp hd, fun op => ?_⟩
  obtain ⟨p, v, s1, s2, t, hpm, hdm, hloaded, hexec⟩ := dualLoad_loads (computeOp .result op) pd dd _ _ hp hd
  exact ⟨p, v, s1, s2, _, t, hpm, hdm, exec_clauseForm .result op s2, hloaded, hexec⟩

end Sys2Proof.Machine
end

section
/-! Reset (`70_reset_and_hazards.md` R471): the value of each field of the reset state that the sources name, whatever
the configuration and the initial image. -/

namespace Sys2Proof.Machine

/-- R471 item 1. -/
@[simp] theorem State.resetWith_mstat (cfg : Config) (image : Image) : (State.resetWith cfg image).mstat = 0#7 := rfl

/-- R471 item 2. -/
@[simp] theorem State.resetWith_ints (cfg : Config) (image : Image) : (State.resetWith cfg image).int.ints = true := rfl

/-- R471 item 3 for LSO. -/
@[simp] theorem State.resetWith_loopOvf (cfg : Config) (image : Image) :
    (State.resetWith cfg image).seq.loopOvf = false := rfl

/-- R471 item 3 for SSO. -/
@[simp] theorem State.resetWith_stsOvf (cfg : Config) (image : Image) :
    (State.resetWith cfg image).seq.stsOvf = false := rfl

/-- R471 item 3 for CSO. -/
@[simp] theorem State.resetWith_cntrOvf (cfg : Config) (image : Image) :
    (State.resetWith cfg image).seq.cntrOvf = false := rfl

/-- R471 item 3 for PSO. -/
@[simp] theorem State.resetWith_pcOvf (cfg : Config) (image : Image) :
    (State.resetWith cfg image).seq.pcOvf = false := rfl

/-- Settles O60: none of the six fields takes its value from the configuration or the image. -/
theorem resetValues : Obligations.ResetValues := fun cfg image =>
  ⟨State.resetWith_mstat cfg image, State.resetWith_ints cfg image, State.resetWith_loopOvf cfg image,
    State.resetWith_stsOvf cfg image, State.resetWith_cntrOvf cfg image, State.resetWith_pcOvf cfg image⟩

end Sys2Proof.Machine
end

section
/-! The sample words (`95_test_vectors.md` section 1.1): closed cases of the decoder with the default tables. -/

namespace Sys2Proof

/-- Settles O4: each word is decoded by evaluation. -/
theorem sampleWords : Obligations.SampleWords := by
  unfold Obligations.SampleWords
  decide

end Sys2Proof
end

section
/-! The state after reset (`70_reset_and_hazards.md` R470, R472): the memories hold the image, and everything else that
the shape of a state speaks of is empty or zero. -/

namespace Sys2Proof.Machine

/-- Zero fits every width of IMASK. -/
@[simp] theorem lowBits_zero (n : Nat) : lowBits n 0 = 0 := by simp [lowBits]

/-- Zero fits every width of ICNTL, and has bit 3 clear. -/
@[simp] theorem icntlOf_zero (n : Nat) : icntlOf n 0 = 0 := by
  rw [icntlOf, lowBits_zero]
  exact BitVec.zero_and

/-- An image that fits the memory maps is in canonical form. -/
theorem Image.wf_of_fits {cfg : Config} {image : Image} (h : image.fits cfg = true) :
    image.pm.wf = true ∧ image.dm.wf = true := by
  simp only [Image.fits, Bool.and_eq_true] at h
  obtain ⟨⟨hpm, -⟩, hdm, -⟩ := h
  exact ⟨hpm, hdm⟩

/-- The empty image fits every map. -/
theorem Image.empty_fits (cfg : Config) : Image.empty.fits cfg = true := rfl

theorem shape_resetWith_wf {cfg : Config} {image : Image} (hpm : image.pm.wf = true) (hdm : image.dm.wf = true) :
    (shape (State.resetWith cfg image)).Wf where
  pm := hpm
  dm := hdm
  pcStack := Nat.zero_le _
  loopStack := Nat.zero_le _
  cntrStack := Nat.zero_le _
  stsStack := Nat.zero_le _
  saved := List.forall_mem_nil _
  imask := lowBits_zero _
  icntl := icntlOf_zero _
  latches := List.length_map _

/-- No pop is pending and no transfer is noted after reset, whatever the configuration and the image. -/
theorem wellShaped_resetWith {cfg : Config} {image : Image} (h : image.fits cfg = true) :
    wellShaped (State.resetWith cfg image) = true := by
  obtain ⟨hpm, hdm⟩ := Image.wf_of_fits h
  exact (wellShaped_iff _).mpr ⟨shape_resetWith_wf hpm hdm, nofun, rfl⟩

/-- Settles O59: `State.reset` is the reset state of one configuration with the empty image, which fits. -/
theorem resetWellShaped : Obligations.ResetWellShaped :=
  ⟨rfl, wellShaped_resetWith (Image.empty_fits _), fun _ _ h => ⟨rfl, rfl, rfl, wellShaped_resetWith h⟩⟩

end Sys2Proof.Machine
end

section
/-! The options of the family members (`00_scope.md` R4, `30_encoding.md` R160 item 5): each instruction that needs one
begins with the test for it. -/

namespace Sys2Proof.Machine

open Claims

/-- An instruction of an option that the member lacks stops before it does anything else (log 11). -/
theorem exec_of_missing_option {i : Instr} {s : State} (h : memberHas s.cfg.member i = false) :
    exec i s = .fault (.unusedEncoding (encodeWith s.cfg.codes i)) := by
  cases i with
  | aluAddK | aluAddKC | aluSubXK | aluSubXKBorrow | aluSubKX | aluSubKXBorrow | aluTstbit | aluClrbit | aluSetbit
  | aluOrNotBit | aluTglbit | aluXorNotBit | aluNotK | aluNegK | aluNotXK | aluAbsK
  | aluPassK | aluPassKInc | aluPassKDec
  | macSqrMulRnd | macSqrMulSs | macSqrMulUu | macSqrAddRnd | macSqrAddSs | macSqrAddUu | macSqrSubRnd | macSqrSubSs
  | macSqrSubUu
  | enaInts | disInts
  | readIo | writeIo => exact if_neg (Bool.eq_false_iff.mp h)
  | flagOut fl2 fl1 fl0 fo c =>
    obtain ⟨hfl, huses⟩ : s.cfg.member.hasFL = false ∧ usesFl fl2 fl1 fl0 = true := by
      simpa [memberHas] using h
    exact if_pos (by rw [hfl, huses]; rfl)
  | _ => cases h

/-- Settles O6: the instructions with an option are the ones that `memberHas` names. -/
theorem missingOptionFaults : Obligations.MissingOptionFaults := fun _ _ h => exec_of_missing_option h

end Sys2Proof.Machine
end

section
/-! PASS of a constant and the divide steps (`40_alu.md` R190, R196, R197): what each writes to the bank and to
ASTAT. -/

namespace Sys2Proof.Machine

open Claims

/-- The three forms are one conditional instruction, which passes the constant, one more or one less. -/
theorem exec_passForm (k : PassKind) (z : Dest) (n : BitVec 4) (inv : Bool) (x : AluXop) (c : Cond) (s : State) :
    exec (passForm k z n inv x c) s =
      passConst (encodeWith s.cfg.codes (passForm k z n inv x c)) z (passValue k n inv) c s := by
  cases k with
  | plain =>
    rw [passValue, ← aluConst_eq_constWord]
    rfl
  | plusOne =>
    have hvalue : passValue .plusOne n inv = aluConst n inv + 1 := by
      rw [passValue, ← aluConst_eq_constWord]
      bv_omega
    rw [hvalue]
    rfl
  | minusOne =>
    have hvalue : passValue .minusOne n inv = aluConst n inv - 1 := by
      rw [passValue, ← aluConst_eq_constWord]
      bv_omega
    rw [hvalue]
    rfl

theorem passConst_true (w : PmWord) (z : Dest) (v : Word) {c : Cond} {s : State}
    (hm : s.cfg.member.hasExt = true) (h : condHolds c s = true) :
    passConst w z v c s = .next (passConstStep z v (afterCond c s)) := by
  rw [passConst, needsExt_of _ hm, ifCond_true _ h, answer_ok]

/-- Only a value that goes to AR under AR_SAT is open; the flags AS, AQ, MV and SS are kept (R190, U1). -/
theorem passConstStep_eq (z : Dest) (v : Word) (s : State) :
    ∃ w, (z = .feedback ∨ arSat s = false → w = v) ∧
      passConstStep z v s = countDraw (setAstat (putAluFlags s.astat (Config.freeFlags s.draws))
        (setBank (withAluDest z w (activeBank s)) s)) := by
  cases z with
  | feedback => exact ⟨v, fun _ => rfl, rfl⟩
  | result => exact ⟨if arSat s then Config.freeWord s.draws else v, by simp_all, rfl⟩

/-- Settles O11: the step runs on the state after the condition, which has the modes, the bank and the flags of the
state before. -/
theorem passConstantForms : Obligations.PassConstantForms := by
  intro k z n inv x c s hm hc
  obtain ⟨v, hv, hstep⟩ := passConstStep_eq z (passValue k n inv) (afterCond c s)
  rw [activeBank_afterCond, afterCond_astat] at hstep
  have hsat : arSat (afterCond c s) = arSat s := by simp only [arSat, afterCond_mstat]
  refine ⟨_, v, (exec_passForm k z n inv x c s).trans (passConst_true _ z _ hm hc), hsat ▸ hv, fun j _ hj => ?_, ?_⟩
  · rw [hstep]
    exact (putAluFlags_getLsbD _ _ j).trans (if_neg (Nat.not_lt.mpr hj))
  · rw [hstep]
    rfl

/-- A word shifted left by one bit, with a new low bit. -/
theorem shiftIn_eq_ofNat (y : Word) (b : Bool) :
    y.extractLsb' 0 15 ++ BitVec.ofBool b = BitVec.ofNat 16 (2 * y.toNat + b.toNat) := by
  apply BitVec.eq_of_toNat_eq
  have hb : b.toNat < 2 ^ 1 := b.toNat_lt
  rw [BitVec.toNat_append, BitVec.toNat_ofBool, ← Nat.shiftLeft_add_eq_or_of_lt hb, Nat.shiftLeft_eq,
    BitVec.extractLsb'_toNat, BitVec.toNat_ofNat]
  omega

/-- The most significant bit of a word as a number. -/
theorem toNat_msb_eq_div (y : Word) : y.msb.toNat = y.toNat / 2 ^ 15 := by
  rw [BitVec.msb_eq_getLsbD_last, BitVec.getLsbD, Nat.toNat_testBit]
  omega

theorem flagAq_writeDiv (o : DivOut) (s : State) : flagAq (writeDiv o s) = o.q :=
  (putFlag_getLsbD s.astat 5 o.q 5 (by decide)).trans (if_pos rfl)

/-- A divide step changes no flag but AQ. -/
theorem writeDiv_astat_getLsbD (o : DivOut) (s : State) {j : Nat} (hj : j ≠ 5) :
    (writeDiv o s).astat.getLsbD j = s.astat.getLsbD j :=
  (putFlag_getLsbD s.astat 5 o.q j (by decide)).trans (if_neg hj)

/-- A divide step shifts the high word with the top bit of AY0, and AY0 with the quotient bit (R196, R197). -/
theorem writeDiv_shifts (y : Word) (q bit : Bool) (s : State) :
    writeDiv { af := y.extractLsb' 0 15 ++ BitVec.ofBool (activeBank s).ay0.msb,
               ay0 := (activeBank s).ay0.extractLsb' 0 15 ++ BitVec.ofBool bit, q := q } s =
      setAstat (putFlag s.astat 5 q) (setBank { activeBank s with
        af := BitVec.ofNat 16 (2 * y.toNat + (activeBank s).ay0.toNat / 2 ^ 15)
        ay0 := BitVec.ofNat 16 (2 * (activeBank s).ay0.toNat + bit.toNat) } s) := by
  rw [shiftIn_eq_ofNat, shiftIn_eq_ofNat, toNat_msb_eq_div]
  rfl

/-- Settles O14: the quotient bit of DIVS is the xor of the signs, that of DIVQ the complement of the new AQ. -/
theorem divideSteps : Obligations.DivideSteps := by
  intro x s
  refine ⟨fun y => ⟨_, rfl, flagAq_writeDiv _ s, fun j _ hj => writeDiv_astat_getLsbD _ s hj, ?_⟩,
    ⟨_, _, rfl, rfl, flagAq_writeDiv _ s, fun j _ hj => writeDiv_astat_getLsbD _ s hj, ?_⟩⟩
  all_goals
    rw [flagAq_writeDiv]
    exact writeDiv_shifts _ _ _ s

end Sys2Proof.Machine
end

section
/-! Accesses that the memory maps do not allow (`20_memory.md` R85 to R87): what stops each read and write, and the
moves that make it. -/

namespace Sys2Proof.Machine

open Claims

/-- Where its first operation stops, an instruction stops with the same fault. -/
theorem answer_bind_of_error {α : Type} {x : Result α} {e : Fault} (f : α → Result State) (h : x = .error e) :
    answer (x >>= f) = .fault e := by
  rw [h]
  rfl

/-! The accesses. -/

theorem readDm_unpopulated {a : Addr} {s : State} (h : regionKind s.cfg.dmMap a.toNat = none) :
    readDm a s = .error (.unpopulatedDM a) := by
  rw [readDm, h]

/-- A populated location that cannot be read is RAM or ROM, and holds no word (D6). -/
theorem readDm_unwritten {a : Addr} {s : State} (h : ¬ dmReadable s a)
    (hk : regionKind s.cfg.dmMap a.toNat ≠ none) : readDm a s = .error (.unwrittenDM a) := by
  obtain ⟨kind, hkind⟩ := Option.ne_none_iff_exists'.mp hk
  cases kind with
  | device => exact absurd (.inr hkind) h
  | ram | rom =>
    have hnone : s.mem.dm.read a.toNat = none := by simpa [dmReadable, hkind] using h
    simp only [readDm, hkind, hnone]

/-- Neither an absent location nor one of ROM takes a word (D28). -/
theorem writeDm_unwritable {a : Addr} {s : State} (v : Word)
    (h : regionKind s.cfg.dmMap a.toNat = none ∨ regionKind s.cfg.dmMap a.toNat = some .rom) :
    writeDm a v s = .error (.unpopulatedDM a) := by
  obtain h | h := h <;> simp only [writeDm, h]

theorem readPm_unpopulated {a : Addr} {s : State} (h : regionKind s.cfg.pmMap a.toNat = none) :
    readPm a s = .error (.unpopulatedPM a) := by
  rw [readPm, h]

theorem readPm_unwritten {a : Addr} {s : State} (h : ¬ pmReadable s a)
    (hk : regionKind s.cfg.pmMap a.toNat ≠ none) : readPm a s = .error (.unwrittenPM a) := by
  obtain ⟨kind, hkind⟩ := Option.ne_none_iff_exists'.mp hk
  cases kind with
  | device => exact absurd (.inr hkind) h
  | ram | rom =>
    have hnone : s.mem.pm.read a.toNat = none := by simpa [pmReadable, hkind] using h
    simp only [readPm, hkind, hnone]

theorem writePm_unwritable {a : Addr} {s : State} (p : PmWord)
    (h : regionKind s.cfg.pmMap a.toNat = none ∨ regionKind s.cfg.pmMap a.toNat = some .rom) :
    writePm a p s = .error (.unpopulatedPM a) := by
  obtain h | h := h <;> simp only [writePm, h]

theorem readIoSpace_unpopulated {a : IoAddr} {s : State} (h : regionKind s.cfg.ioMap a.toNat = none) :
    readIoSpace a s = .error (.unpopulatedIO a) := by
  rw [readIoSpace, h]

theorem writeIoSpace_unpopulated {a : IoAddr} {s : State} (v : Word) (h : regionKind s.cfg.ioMap a.toNat = none) :
    writeIoSpace a v s = .error (.unpopulatedIO a) := by
  rw [writeIoSpace, h]

/-! The moves. -/

theorem exec_readDm_of_error {a : Addr} {d : Reg} {s : State} {e : Fault} (h : readDm a s = .error e) :
    exec (.readDm a d) s = .fault e :=
  answer_bind_of_error _ h

/-- The source is read first, which a source register allows; the maps are then what they were. -/
theorem exec_writeDm_unwritable {a : Addr} {r : Reg} {s : State} (hr : r.isSource = true)
    (h : regionKind s.cfg.dmMap a.toNat = none ∨ regionKind s.cfg.dmMap a.toNat = some .rom) :
    exec (.writeDm a r) s = .fault (.unpopulatedDM a) := by
  obtain ⟨v, u, hread, -, hcfg, -⟩ := readReg_reads (encodeWith s.cfg.codes (.writeDm a r)) r s hr
  show answer (regToDm _ a r s) = _
  rw [regToDm_of_read hread, writeDm_unwritable v (by rwa [hcfg]), answer_error]

theorem exec_readPmInd_of_error {d : DReg} {i m : BitVec 2} {s : State} {e : Fault}
    (h : readPm (addrOut s (dagIdx .dag2 i)) s = .error e) : exec (.readPmInd d i m) s = .fault e :=
  answer_bind_of_error _ h

theorem exec_writePmInd_unwritable {d : DReg} {i m : BitVec 2} {s : State}
    (h : regionKind s.cfg.pmMap (addrOut s (dagIdx .dag2 i)).toNat = none ∨
      regionKind s.cfg.pmMap (addrOut s (dagIdx .dag2 i)).toNat = some .rom) :
    exec (.writePmInd d i m) s = .fault (.unpopulatedPM (addrOut s (dagIdx .dag2 i))) :=
  answer_bind_of_error _ (writePm_unwritable _ h)

theorem exec_readIo_unpopulated {a : IoAddr} {d : DReg} {s : State} (hio : s.cfg.member.hasIO = true)
    (h : regionKind s.cfg.ioMap a.toNat = none) : exec (.readIo a d) s = .fault (.unpopulatedIO a) :=
  (if_pos hio).trans (answer_bind_of_error _ (readIoSpace_unpopulated h))

theorem exec_writeIo_unpopulated {a : IoAddr} {r : DReg} {s : State} (hio : s.cfg.member.hasIO = true)
    (h : regionKind s.cfg.ioMap a.toNat = none) : exec (.writeIo a r) s = .fault (.unpopulatedIO a) :=
  (if_pos hio).trans (congrArg answer (writeIoSpace_unpopulated _ h))

/-- Settles O29: each move stops where its access does. -/
theorem absentMemoryFaults : Obligations.AbsentMemoryFaults := fun _ =>
  ⟨fun _ _ _ hr h => ⟨exec_readDm_of_error (readDm_unpopulated h), exec_writeDm_unwritable hr (.inl h)⟩,
    fun _ _ hr h => exec_writeDm_unwritable hr (.inr h),
    fun _ _ h hk => exec_readDm_of_error (readDm_unwritten h hk),
    fun _ _ _ h => ⟨exec_readPmInd_of_error (readPm_unpopulated h), exec_writePmInd_unwritable (.inl h)⟩,
    fun _ _ _ h => exec_writePmInd_unwritable (.inr h),
    fun _ _ _ h hk => exec_readPmInd_of_error (readPm_unwritten h hk),
    fun _ _ hio h => ⟨exec_readIo_unpopulated hio h, exec_writeIo_unpopulated hio h⟩⟩

end Sys2Proof.Machine
end

section
/-! The TOPPCSTACK forms, and the stacks that are full, empty, or about to be popped (`10_state.md` R55 to R60,
`45_misc.md` R370 to R376, `70_reset_and_hazards.md` R481). -/

namespace Sys2Proof.Machine

open Claims

/-! The registers that the TOPPCSTACK forms name (R376). -/

theorem Reg.isSource_of_isTopReg {r : Reg} (h : r.isTopReg = true) : r.isSource = true := by
  cases r with
  | dreg | i | m | l => rfl
  | _ => cases h

/-- A register of groups 0, 1 and 2 is neither SSTAT nor CNTR, so that nothing stops its write. -/
theorem regWritable_of_isTopReg {r : Reg} (h : r.isTopReg = true) (s : State) : regWritable r s :=
  ⟨(by rintro rfl; cases h), (by rintro rfl; cases h)⟩

/-- Such a register is read as its bus value, without an effect. -/
theorem readReg_of_isTopReg {r : Reg} (h : r.isTopReg = true) (s : State) :
    ∃ v, IsBusValue r s v ∧ ∀ w, readReg w r s = .ok (v, s) :=
  readReg_eq_busValue r s (Reg.isSource_of_isTopReg h) (by rintro rfl; cases h) (by rintro rfl; cases h)

theorem exec_moveFromTop {r : Reg} (h : r.isTopReg = true) (s : State) :
    exec (.moveFromTop r) s = answer (topToReg (encodeWith s.cfg.codes (.moveFromTop r)) r s) :=
  if_pos h

theorem exec_moveToTop {r : Reg} (h : r.isTopReg = true) (s : State) :
    exec (.moveToTop r) s = answer (regToTop (encodeWith s.cfg.codes (.moveToTop r)) r s) :=
  if_pos h

/-- With no pop pending `TOPPCSTACK = reg` is a push of the low 14 bits of the bus value. -/
theorem exec_moveToTop_push {r : Reg} {s : State} (hr : r.isTopReg = true) (hp : s.seq.pcPopPending = false) :
    ∃ v, IsBusValue r s v ∧ exec (.moveToTop r) s = answer (pushPc (BitVec.ofNat 14 v.toNat) s) := by
  obtain ⟨v, hbus, hread⟩ := readReg_of_isTopReg hr s
  refine ⟨v, hbus, ?_⟩
  rw [exec_moveToTop hr, regToTop, guardPcStack_ok hp, result_bind_ok, hread, result_bind_ok, ← setWidth_eq_ofNat]

/-- Settles O30: the top is written to the register before the pop is marked. -/
theorem topPcStackForms : Obligations.TopPcStackForms := by
  intro r s hr hp
  refine ⟨fun a rest htop => ?_, fun hroom => ?_⟩
  · obtain ⟨u, hwrite, hwritten⟩ := writeReg_written (encodeWith s.cfg.codes (.moveFromTop r)) r (a.setWidth 16) s
      (regWritable_of_isTopReg hr s)
    refine ⟨a.setWidth 16, u, BitVec.toNat_setWidth_of_le (by decide), hwritten, ?_⟩
    rw [exec_moveFromTop hr, topToReg, guardPcStack_ok hp, result_bind_ok, topPc_eq_ok.mpr ⟨rest, htop⟩,
      result_bind_ok, hwrite, result_bind_ok, answer_ok]
    rfl
  · obtain ⟨v, hbus, hexec⟩ := exec_moveToTop_push hr hp
    exact ⟨v, hbus, hexec.trans (answer_eq_next.mpr (pushPc_eq_ok.mpr ⟨hroom, rfl⟩))⟩

/-! SSTAT once an overflow bit is set (R37, R59). -/

/-- PSO is bit 1, CSO bit 3 and SSO bit 5. -/
theorem sstat_setOvf (s : State) :
    sstat { s with seq := { s.seq with pcOvf := true } } = sstat s ||| 2#8 ∧
    sstat { s with seq := { s.seq with cntrOvf := true } } = sstat s ||| 8#8 ∧
    sstat { s with seq := { s.seq with stsOvf := true } } = sstat s ||| 0x20#8 := by
  simp only [sstat]
  generalize s.seq.loopStack.isEmpty = le, s.seq.stsStack.isEmpty = se, s.seq.cntrStack.isEmpty = ce,
    s.seq.pcStack.isEmpty = pe, s.seq.loopOvf = lo, s.seq.stsOvf = so, s.seq.cntrOvf = co, s.seq.pcOvf = po
  decide +revert

/-! Full stacks (R59). -/

theorem pushPc_full (a : Addr) {s : State} (h : pcStackDepth ≤ s.seq.pcStack.length) :
    pushPc a s = .error (.stackOverflow .pc (sstat s ||| 2#8)) := by
  obtain ⟨hpso, -⟩ := sstat_setOvf s
  rw [pushPc, if_pos h, hpso]

theorem pushCntr_full {s : State} (h : s.cfg.cntrStackDepth ≤ s.seq.cntrStack.length) :
    pushCntr s = .error (.stackOverflow .counter (sstat s ||| 8#8)) := by
  obtain ⟨-, hcso, -⟩ := sstat_setOvf s
  rw [pushCntr, if_pos h, hcso]

theorem pushSts_full {s : State} (h : s.cfg.stsStackDepth ≤ s.seq.stsStack.length) :
    pushSts s = .error (.stackOverflow .status (sstat s ||| 0x20#8)) := by
  obtain ⟨-, -, hsso⟩ := sstat_setOvf s
  rw [pushSts, if_pos h, hsso]

theorem loadCntr_full (v : Addr) {s : State} (hpushes : s.cfg.cntrFirstLoadPushes = true)
    (h : s.cfg.cntrStackDepth ≤ s.seq.cntrStack.length) :
    loadCntr v s = .error (.stackOverflow .counter (sstat s ||| 8#8)) := by
  rw [loadCntr, hpushes, Bool.true_or, if_pos rfl, pushCntr_full h, result_bind_error]

/-! Empty stacks (R59). -/

theorem popPc_empty {s : State} (h : s.seq.pcStack = []) : popPc s = .error (.stackUnderflow .pc) := by
  rw [popPc, h]

theorem topPc_empty {s : State} (h : s.seq.pcStack = []) : topPc s = .error (.stackUnderflow .pc) := by
  rw [topPc, h]

theorem popLoop_empty {s : State} (h : s.seq.loopStack = []) : popLoop s = .error (.stackUnderflow .loop) := by
  rw [popLoop, h]

theorem popCntr_empty {s : State} (h : s.seq.cntrStack = []) : popCntr s = .error (.stackUnderflow .counter) := by
  rw [popCntr, h]

theorem popSts_empty {s : State} (h : s.seq.stsStack = []) : popSts s = .error (.stackUnderflow .status) := by
  rw [popSts, h]

theorem dropPc_empty {s : State} (hp : s.seq.pcPopPending = false) (h : s.seq.pcStack = []) :
    dropPc s = .error (.stackUnderflow .pc) := by
  rw [dropPc, guardPcStack_ok hp, result_bind_ok, popPc_empty h, result_bind_error]

theorem dropLoop_empty {s : State} (h : s.seq.loopStack = []) : dropLoop s = .error (.stackUnderflow .loop) := by
  rw [dropLoop, popLoop_empty h, result_bind_error]

/-! The instructions on such stacks. -/

theorem exec_call_full (a : Addr) {s : State} (hp : s.seq.pcPopPending = false)
    (h : pcStackDepth ≤ s.seq.pcStack.length) :
    exec (.call a .always) s = .fault (.stackOverflow .pc (sstat s ||| 2#8)) := by
  show answer (callTo a s) = _
  rw [callTo, guardPcStack_ok hp, result_bind_ok]
  exact answer_bind_of_error _ (pushPc_full _ h)

theorem exec_moveToTop_full {r : Reg} {s : State} (hr : r.isTopReg = true) (hp : s.seq.pcPopPending = false)
    (h : pcStackDepth ≤ s.seq.pcStack.length) :
    exec (.moveToTop r) s = .fault (.stackOverflow .pc (sstat s ||| 2#8)) := by
  obtain ⟨v, -, hexec⟩ := exec_moveToTop_push hr hp
  rw [hexec, pushPc_full _ h, answer_error]

theorem exec_loadCntr_full (v : BitVec 14) {s : State} (hpushes : s.cfg.cntrFirstLoadPushes = true)
    (h : s.cfg.cntrStackDepth ≤ s.seq.cntrStack.length) :
    exec (.loadReg v .cntr) s = .fault (.stackOverflow .counter (sstat s ||| 8#8)) :=
  congrArg answer (loadCntr_full _ hpushes h)

theorem exec_rts_empty {s : State} (hp : s.seq.pcPopPending = false) (h : s.seq.pcStack = []) :
    exec (.rts .always) s = .fault (.stackUnderflow .pc) := by
  show answer (returnFromSub s) = _
  rw [returnFromSub, guardPcStack_ok hp, result_bind_ok]
  exact answer_bind_of_error _ (popPc_empty h)

theorem exec_moveFromTop_empty {r : Reg} {s : State} (hr : r.isTopReg = true) (hp : s.seq.pcPopPending = false)
    (h : s.seq.pcStack = []) : exec (.moveFromTop r) s = .fault (.stackUnderflow .pc) := by
  rw [exec_moveFromTop hr, topToReg, guardPcStack_ok hp, result_bind_ok]
  exact answer_bind_of_error _ (topPc_empty h)

/-! Stack control stops where the one action that its fields ask for does; POP PC comes before POP LOOP (R370). -/

theorem exec_stsAction_of_error {sp : StsOp} {s : State} {e : Fault} (h : stsAction sp s = .error e) :
    exec (.stackControl false false false sp) s = .fault e :=
  answer_bind_of_error _ h

theorem exec_popCntr_of_error {s : State} {e : Fault} (h : popCntr s = .error e) :
    exec (.stackControl false false true .keep) s = .fault e := by
  show answer (controlStacks false false true .keep s) = _
  simp [controlStacks, stsAction, optionally, h]

theorem exec_dropPc_of_error {lp : Bool} {s : State} {e : Fault} (h : dropPc s = .error e) :
    exec (.stackControl true lp false .keep) s = .fault e := by
  show answer (controlStacks true lp false .keep s) = _
  simp [controlStacks, stsAction, optionally, h]

theorem exec_dropLoop_of_error {s : State} {e : Fault} (h : dropLoop s = .error e) :
    exec (.stackControl false true false .keep) s = .fault e :=
  congrArg answer h

/-- Settles O35: each instruction stops in the push or the pop that it makes. -/
theorem stackFaults : Obligations.StackFaults := fun _ hp =>
  ⟨fun hfull => ⟨fun a => exec_call_full a hp hfull, fun _ hr => exec_moveToTop_full hr hp hfull⟩,
    fun hfull => exec_stsAction_of_error (pushSts_full hfull),
    fun hfull hpushes v => exec_loadCntr_full v hpushes hfull,
    fun hempty => ⟨exec_rts_empty hp hempty, exec_dropPc_of_error (dropPc_empty hp hempty),
      fun _ hr => exec_moveFromTop_empty hr hp hempty⟩,
    fun hempty => exec_dropLoop_of_error (dropLoop_empty hempty),
    fun hempty => exec_popCntr_of_error (popCntr_empty hempty),
    fun hempty => exec_stsAction_of_error (popSts_empty hempty)⟩

end Sys2Proof.Machine
end

section
/-! Multifunction words with two clauses for one register (`46_multifunction.md` R402). -/

namespace Sys2Proof.Machine

open Claims

/-- Where the transfer of a multifunction word can be made, clauses that clash stop it (D11, log 11). -/
theorem answer_unlessClash_of_clash {w : PmWord} {clash : Bool} {r : Result State} {t : State}
    (hclash : clash = true) (h : r = .ok t) : answer (unlessClash w clash r) = .fault (.sameDestination w) := by
  rw [h, hclash]
  rfl

/-- The location can be read, so that the fault is the clash. -/
theorem loadDmInd_clashes {compute : State → State} {w : PmWord} {clash : Bool} (d : DReg) {a : DagIdx} (b : DagIdx)
    {s : State} (ha : dmReadable s (addrOut s a)) (hclash : clash = true) :
    answer (unlessClash w clash (loadDmInd compute d a b s)) = .fault (.sameDestination w) := by
  obtain ⟨v, u, hread, -⟩ := readDm_reads s _ ha
  exact answer_unlessClash_of_clash hclash (loadDmInd_of_read hread)

theorem loadPmInd_clashes {compute : State → State} {w : PmWord} {clash : Bool} (d : DReg) {a : DagIdx} (b : DagIdx)
    {s : State} (ha : pmReadable s (addrOut s a)) (hclash : clash = true) :
    answer (unlessClash w clash (loadPmInd compute d a b s)) = .fault (.sameDestination w) := by
  obtain ⟨p, u, hread, -⟩ := readPm_reads s _ ha
  exact answer_unlessClash_of_clash hclash (loadPmInd_of_read hread)

/-- Settles O46: the registers that a clause writes are the ones the model compares with the transfer's. -/
theorem sameDestinationFaults : Obligations.SameDestinationFaults := by
  intro g z op f x d r i m s
  refine ⟨fun h => ?_, fun h => ?_⟩
  · have hclash := (clashes_computeDests z op d).trans h
    exact ⟨answer_unlessClash_of_clash hclash rfl, fun ha => loadDmInd_clashes d _ ha hclash,
      fun ha => loadPmInd_clashes d _ ha hclash⟩
  · have hclash := (clashes_shiftDests f d).trans h
    exact ⟨answer_unlessClash_of_clash hclash rfl, fun ha => loadDmInd_clashes d _ ha hclash,
      fun ha => loadPmInd_clashes d _ ha hclash⟩

end Sys2Proof.Machine
end

section
/-! The sequencer at the end of a loop (`44_program_flow.md` R337, R351, R352), and the stops of a pending pop of the PC
stack (`70_reset_and_hazards.md` R481). -/

namespace Sys2Proof.Machine

open Claims

/-! Leaving a loop. -/

/-- At a loop's end, with its condition met and no transfer taken, the sequencer leaves the loop (R351). -/
theorem advance_loopExit {s t : State} {e : LoopEntry} (hend : atLoopEnd s = some e) (hno : t.seq.transfer = none)
    (hterm : termHolds e.term s = true) :
    advance s t = loopExit t >>= fun u => .ok (setPc (s.seq.pc + 1) u) := by
  simp only [advance, hno, hend, hterm, if_true]

/-- The state with what is left of the PC stack and of the loop stack after the exit of a loop. -/
def leaveLoop (pcs : List Addr) (loops : List LoopEntry) (t : State) : State :=
  { t with seq := { t.seq with pcStack := pcs, loopStack := loops } }

/-- The exit pops the loop stack and the PC stack; for CE it goes on to CNTR (R352). -/
theorem loopExit_pops {t : State} {e : LoopEntry} {a : Addr} {more : List Addr} {more' : List LoopEntry}
    (hpc : t.seq.pcStack = a :: more) (hloop : t.seq.loopStack = e :: more') :
    loopExit t = .ok (if e.term = .ce then cntrAfterLoop (leaveLoop more more' t) else leaveLoop more more' t) := by
  have hpopLoop := popLoop_eq_ok.mpr ⟨more', hloop, rfl⟩
  have hpopPc : popPc { t with seq := { t.seq with loopStack := more' } } = .ok (a, leaveLoop more more' t) :=
    popPc_eq_ok.mpr ⟨more, hpc, rfl⟩
  simp [loopExit, hpopLoop, hpopPc]

/-- A counter stack with an entry gives CNTR its top (R352). -/
theorem cntrAfterLoop_pop {t : State} {v : Addr} {vs : List Addr} (h : t.seq.cntrStack = v :: vs) :
    cntrAfterLoop t = { t with seq := { t.seq with cntr := v, cntrStack := vs } } := by
  rw [cntrAfterLoop, h]

/-- An empty one leaves CNTR open, which takes a draw (D18, log 12). -/
theorem cntrAfterLoop_empty {t : State} (h : t.seq.cntrStack = []) :
    cntrAfterLoop t = countDraw { t with seq := { t.seq with cntr := Config.freeCntr t.draws } } := by
  rw [cntrAfterLoop, h]

/-- With no pop pending the step that leaves a loop goes on at PC + 1. -/
theorem completeInstr_loopExit {s t u : State} {e : LoopEntry} (hp : s.seq.pcPopPending = false)
    (hend : atLoopEnd s = some e) (hno : t.seq.transfer = none) (hterm : termHolds e.term s = true)
    (hexit : loopExit t = .ok u) : completeInstr s t = .ok (stepTo (s.seq.pc + 1) u) := by
  rw [completeInstr, advance_loopExit hend hno hterm, hexit, result_bind_ok, result_bind_ok, delayedPop, hp]
  rfl

/-- Settles O49: the exit pops the stacks that the instruction left, and CNTR for a CE loop. (`loopExit` itself is the
sequencer's operation.) -/
theorem step_makes_loopExit : Obligations.LoopExit := by
  intro s t w i pend e rest a more more' hn hl hf hd hp hloop hlast hallowed hexec hno hterm hpc hloop'
  have hend := atLoopEnd_some s e rest hloop hlast
  have hstep : step s = answer (completeInstr s t) :=
    step_of_exec (.inl hn) hl hf hd (loopEndRestricted_false i s e rest hloop hlast hallowed) (by simp [hp])
      (by rw [beginInstr_end s e rest pend hloop hlast, hexec])
  rw [hstep, completeInstr_loopExit hp hend hno ((termHolds_iff _ s).mpr hterm) (loopExit_pops hpc hloop'), answer_ok]
  refine ⟨fun hother => ?_, fun v vs hce hcntr => ?_, fun hce hcntr => ⟨Config.freeCntr t.draws, ?_⟩⟩
  · rw [if_neg hother]
    rfl
  · rw [if_pos hce, cntrAfterLoop_pop (t := leaveLoop more more' t) hcntr]
    rfl
  · rw [if_pos hce, cntrAfterLoop_empty (t := leaveLoop more more' t) hcntr]
    rfl

/-! Stops of the sequencer. -/

/-- A step that takes no interrupt runs the instruction it fetches; which latches dispatch samples does not matter. -/
theorem exists_step_eq_runInstr {s : State} {w : PmWord} {i : Instr} (hn : NoInterrupt s) (hf : Fetches s w)
    (hd : decodeWith s.cfg.codes w = .ok i) :
    ∃ pend, step s = runInstr i { s with int := { s.int with irqPending := pend } } :=
  ⟨_, step_eq_runInstr s w i _ (.inl hn) ((latchesNow_iff s _).mpr rfl) hf hd⟩

/-- The test for what a loop end allows comes before the instruction (R337). -/
theorem runInstr_restricted {i : Instr} {s : State} (h : loopEndRestricted i s = true) :
    runInstr i s = .fault .loopEndRestriction := by
  rw [runInstr, if_pos h]

/-- An allowed instruction at a loop end still meets a pending pop (R481). -/
theorem runInstr_popPending {i : Instr} {s : State} {e : LoopEntry} (hfree : loopEndRestricted i s = false)
    (hp : s.seq.pcPopPending = true) (hend : atLoopEnd s = some e) : runInstr i s = .fault .pcPopHazard := by
  simp [runInstr, hfree, hp, hend]

/-- Settles O50: the instructions named are the ones the sequencer's test refuses. -/
theorem loopEndRestrictions : Obligations.LoopEndRestrictions := by
  intro s w i e rest hn hf hd hloop hlast hrestricted
  obtain ⟨pend, hstep⟩ := exists_step_eq_runInstr hn hf hd
  rw [hstep]
  exact runInstr_restricted (loopEndRestricted_true i _ e rest hloop hlast hrestricted)

/-! A pending pop (R481). -/

/-- An operation behind the guard of the PC stack. -/
theorem guardPcStack_bind_pending {s : State} (f : Unit → Result State) (h : s.seq.pcPopPending = true) :
    guardPcStack s >>= f = .error .pcPopHazard := by
  rw [guardPcStack, if_pos h]
  rfl

theorem callTo_pending (a : Addr) {s : State} (h : s.seq.pcPopPending = true) : callTo a s = .error .pcPopHazard :=
  guardPcStack_bind_pending _ h

theorem returnFromSub_pending {s : State} (h : s.seq.pcPopPending = true) :
    returnFromSub s = .error .pcPopHazard :=
  guardPcStack_bind_pending _ h

theorem returnFromInterrupt_pending {s : State} (h : s.seq.pcPopPending = true) :
    returnFromInterrupt s = .error .pcPopHazard :=
  guardPcStack_bind_pending _ h

theorem enterLoop_pending (a : Addr) (term : Term) {s : State} (h : s.seq.pcPopPending = true) :
    enterLoop a term s = .error .pcPopHazard :=
  guardPcStack_bind_pending _ h

theorem topToReg_pending (w : PmWord) (d : Reg) {s : State} (h : s.seq.pcPopPending = true) :
    topToReg w d s = .error .pcPopHazard :=
  guardPcStack_bind_pending _ h

theorem regToTop_pending (w : PmWord) (r : Reg) {s : State} (h : s.seq.pcPopPending = true) :
    regToTop w r s = .error .pcPopHazard :=
  guardPcStack_bind_pending _ h

theorem dropPc_pending {s : State} (h : s.seq.pcPopPending = true) : dropPc s = .error .pcPopHazard :=
  guardPcStack_bind_pending _ h

/-- Evaluating a condition leaves the pop pending, so that a taken instruction stops as its operation does. -/
theorem answer_ifCond_pending {c : Cond} {op : State → Result State} {s : State} (hc : condHolds c s = true)
    (hp : s.seq.pcPopPending = true) (hop : ∀ t, t.seq.pcPopPending = true → op t = .error .pcPopHazard) :
    answer (ifCond c op s) = .fault .pcPopHazard := by
  rw [ifCond_true op hc, hop _ (by rwa [afterCond_pcPopPending]), answer_error]

/-- Under the fault setting an interrupt that is to be taken stops the step (D26, R443). -/
theorem step_of_candidate_pending {s : State} {k : Nat} {src : IntSource} (hcand : Candidate s k src)
    (hp : s.seq.pcPopPending = true) (hset : s.cfg.topPcPopInt = .fault) : step s = .fault .pcPopHazard := by
  have hsome : interruptToTake s ≠ none := fun hnone => (noInterrupt_iff s).mpr hnone k src hcand
  obtain ⟨⟨j, x⟩, htake⟩ := Option.ne_none_iff_exists'.mp hsome
  have hp' : (sampleRequests s).seq.pcPopPending = true := hp
  have hset' : (sampleRequests s).cfg.topPcPopInt = .fault := hset
  simp [step, dispatchInterrupt, htake, takeUnlessPopPending, hp', hset']

/-- Settles O52: each instruction that uses the PC stack does so behind its guard; the interrupt and the loop end are
the sequencer's own tests. -/
theorem pcPopHazards : Obligations.PcPopHazards := by
  intro s hp
  refine ⟨fun c a i hc => ⟨?_, ?_, ?_, ?_⟩, fun a => ?_, fun a t => ?_, fun r hr => ⟨?_, ?_⟩, fun lp => ?_,
    fun k src hcand hset => step_of_candidate_pending hcand hp hset, fun w i e rest hn hf hd hloop hlast hallowed => ?_⟩
  · exact answer_ifCond_pending hc hp fun _ => callTo_pending a
  · exact answer_ifCond_pending hc hp fun _ => callTo_pending _
  · exact answer_ifCond_pending hc hp fun _ => returnFromSub_pending
  · exact answer_ifCond_pending hc hp fun _ => returnFromInterrupt_pending
  · exact (if_pos rfl).trans (congrArg answer (callTo_pending a hp))
  · exact congrArg answer (enterLoop_pending a t hp)
  · rw [exec_moveFromTop hr, topToReg_pending _ r hp, answer_error]
  · rw [exec_moveToTop hr, regToTop_pending _ r hp, answer_error]
  · exact exec_dropPc_of_error (dropPc_pending hp)
  · obtain ⟨pend, hstep⟩ := exists_step_eq_runInstr hn hf hd
    rw [hstep]
    exact runInstr_popPending (loopEndRestricted_false i _ e rest hloop hlast hallowed) hp
      (atLoopEnd_some _ e rest hloop hlast)

end Sys2Proof.Machine
end

section
/-! What the parts of a step can change beside the instruction's own effect (`44_program_flow.md` R335), each as one
equation, and with them the address that the prefetch rule remembers (`20_memory.md` R100). -/

namespace Sys2Proof.Machine

open Claims

/-! The parts of a step. -/

/-- Dispatch samples the requests and may take an interrupt: only the interrupt unit and the sequencer can differ. -/
theorem dispatchInterrupt_frame {s t : State} (h : dispatchInterrupt s = .ok t) :
    t = { s with int := t.int, seq := t.seq } := by
  obtain rfl | ⟨-, k, src, h⟩ := dispatchInterrupt_cases h
  · rfl
  · obtain ⟨-, -, rfl⟩ := takeInterrupt_eq_ok.mp h
    rfl

/-- A fetch reads program memory: a device range draws a word and notes an event, and nothing else can differ. -/
theorem fetch_frame {s t : State} {w : PmWord} (h : fetch s = .ok (w, t)) :
    t = { s with events := t.events, draws := t.draws } := by
  unfold fetch at h
  split at h
  · cases h
  · obtain ⟨-, -, rfl⟩ | ⟨-, -, rfl⟩ := readPm_eq_ok.mp h <;> rfl

theorem beginInstr_frame (s : State) :
    beginInstr s =
      { s with seq := (beginInstr s).seq, ports := (beginInstr s).ports, mem := (beginInstr s).mem } := by
  unfold beginInstr
  cases atLoopEnd s with
  | none => rfl
  | some e => by_cases hce : e.term = .ce <;> simp [afterTerm, hce, setCntr]

/-- What the sequencer does after an instruction: only its own registers and the counters of the model can differ. -/
def SequencerOnly (t u : State) : Prop := u = { t with seq := u.seq, draws := u.draws, steps := u.steps }

theorem SequencerOnly.trans {s t u : State} (h : SequencerOnly s t) (h' : SequencerOnly t u) : SequencerOnly s u := by
  unfold SequencerOnly at *
  rw [h', h]

theorem SequencerOnly.mem {t u : State} (h : SequencerOnly t u) : u.mem = t.mem := by
  unfold SequencerOnly at h
  rw [h]

theorem popPc_sequencerOnly {s t : State} {a : Addr} (h : popPc s = .ok (a, t)) : SequencerOnly s t := by
  obtain ⟨rest, -, rfl⟩ := popPc_eq_ok.mp h
  rfl

theorem popLoop_sequencerOnly {s t : State} {e : LoopEntry} (h : popLoop s = .ok (e, t)) : SequencerOnly s t := by
  obtain ⟨rest, -, rfl⟩ := popLoop_eq_ok.mp h
  rfl

theorem cntrAfterLoop_sequencerOnly (s : State) : SequencerOnly s (cntrAfterLoop s) := by
  unfold cntrAfterLoop
  split <;> rfl

theorem loopExit_sequencerOnly {s t : State} (h : loopExit s = .ok t) : SequencerOnly s t := by
  obtain ⟨⟨e, u⟩, hu, h⟩ := result_bind_eq_ok.mp h
  obtain ⟨⟨a, v⟩, hv, h⟩ := result_bind_eq_ok.mp h
  have hpops : SequencerOnly s v := (popLoop_sequencerOnly hu).trans (popPc_sequencerOnly hv)
  by_cases hce : e.term = .ce <;> simp only [hce, if_true, if_false] at h <;> cases h
  · exact hpops.trans (cntrAfterLoop_sequencerOnly v)
  · exact hpops

theorem advance_sequencerOnly {s t u : State} (h : advance s t = .ok u) : SequencerOnly t u := by
  unfold advance at h
  split at h
  · cases h; rfl
  · split at h
    · cases h; rfl
    · split at h
      · obtain ⟨v, hv, h⟩ := result_bind_eq_ok.mp h
        cases h
        exact (loopExit_sequencerOnly hv).trans rfl
      · obtain ⟨a, -, h⟩ := result_bind_eq_ok.mp h
        cases h
        rfl

theorem delayedPop_sequencerOnly {s t u : State} (h : delayedPop s t = .ok u) : SequencerOnly t u := by
  unfold delayedPop at h
  split at h
  · obtain ⟨⟨a, v⟩, hv, h⟩ := result_bind_eq_ok.mp h
    cases h
    exact (popPc_sequencerOnly hv).trans rfl
  · cases h; rfl

theorem completeInstr_sequencerOnly {s t u : State} (h : completeInstr s t = .ok u) : SequencerOnly t u := by
  obtain ⟨v, hv, h⟩ := result_bind_eq_ok.mp h
  obtain ⟨v', hv', h⟩ := result_bind_eq_ok.mp h
  cases h
  exact ((advance_sequencerOnly hv).trans (delayedPop_sequencerOnly hv')).trans rfl

/-! The computations leave the memories, and the remembered address with them, alone. -/

@[simp] theorem aluStep_mem (f : AluFn) (z : Dest) (x y : Word) (s : State) : (aluStep f z x y s).mem = s.mem := by
  cases z with
  | feedback => simp [aluStep, writeAlu]
  | result => simp only [aluStep, writeAlu]; split <;> simp

@[simp] theorem macOp_mem (f : MacFn) (z : Dest) (x y : Word) (s : State) : (macOp f z x y s).mem = s.mem := by
  cases z <;> simp [macOp, writeMac]

@[simp] theorem computeOp_mem (z : Dest) (op : AluMac) (s : State) : (computeOp z op s).mem = s.mem := by
  cases op <;> simp [computeOp]

@[simp] theorem shiftOp_mem (f : ShiftFn) (x : Word) (s : State) : (shiftOp f x s).mem = s.mem := by
  cases f with
  | expHix => simp only [shiftOp, expHix]; split <;> simp [expHi, writeExp]
  | expadj => simp only [shiftOp, expAdj]; split <;> simp
  | _ => simp [shiftOp, expHi, expLo, writeExp, writeSr]

@[simp] theorem computeShift_mem (f : ShiftFn) (x : ShiftXop) (s : State) : (computeShift f x s).mem = s.mem :=
  shiftOp_mem f _ s

/-! The remembered address. -/

/-- A PM write remembers the address that is output on the state before, whatever computation stands beside it. -/
theorem storePmInd_pmWritten {compute : State → State} (hc : ∀ s, (compute s).mem = s.mem) {v : Word} {a b : DagIdx}
    {s t : State} (h : storePmInd compute v a b s = .ok t) : t.mem.pmWritten = some (addrOut s a) := by
  obtain ⟨u, hu, h⟩ := result_bind_eq_ok.mp h
  cases h
  rw [postModify_mem, hc]
  obtain ⟨-, rfl⟩ | ⟨-, rfl⟩ := writePm_eq_ok.mp hu <;> rfl

/-- The three PM writes are stores with no computation, an ALU or MAC clause, or a shifter clause beside them. -/
theorem exec_pmWritten {i : Instr} {j : BitVec 2} {s t : State} (hi : pmWriteIndex i = some j)
    (h : exec i s = .next t) : t.mem.pmWritten = some (addrOut s (dagIdx .dag2 j)) := by
  cases i with
  | writePmInd r j' m => cases hi; exact storePmInd_pmWritten (fun _ => rfl) (answer_eq_next.mp h)
  | compWritePm z op r j' m => cases hi; exact storePmInd_pmWritten (computeOp_mem z op) (answer_eq_next.mp h)
  | shiftWritePm f x r j' m => cases hi; exact storePmInd_pmWritten (computeShift_mem f x) (answer_eq_next.mp h)
  | _ => cases hi

/-- What comes before the instruction changes neither the I registers nor the modes. -/
theorem addrOut_beginInstr (s : State) (a : DagIdx) : addrOut (beginInstr s) a = addrOut s a := by
  rw [beginInstr_frame]
  rfl

/-- A step that fetches what the instruction before wrote stops (R100, D20). -/
theorem fetch_written {s : State} (h : s.mem.pmWritten = some s.seq.pc) :
    fetch s = .error (.selfModifyHazard s.seq.pc) := by
  rw [fetch, if_pos h]

/-- Where the fetch after dispatch stops, the step stops with the same fault. -/
theorem step_of_fetch_error {s t : State} {e : Fault} (hd : dispatchInterrupt s = .ok t) (hidle : t.int.idle = false)
    (hf : fetch t = .error e) : step s = .fault e := by
  simp [step, hd, hidle, runNext, hf]

/-- Settles O53: the sequencer leaves the remembered address, and with no interrupt to take the next step compares it
with its own PC. -/
theorem selfModifyFaults : Obligations.SelfModifyFaults := by
  intro s
  refine ⟨fun w i j t hn hf hd hi h => ?_, fun hn hidle hwritten => ?_⟩
  · obtain ⟨pend, hstep⟩ := exists_step_eq_runInstr hn hf hd
    obtain ⟨-, u, hexec, hend⟩ := runInstr_eq_next (hstep ▸ h)
    have hu := exec_pmWritten hi hexec
    rw [addrOut_beginInstr] at hu
    rwa [(completeInstr_sequencerOnly hend).mem]
  · have hdispatch := dispatchInterrupt_none s _ hn ((latchesNow_iff s _).mpr rfl)
    exact step_of_fetch_error hdispatch hidle (fetch_written hwritten)

end Sys2Proof.Machine
end

section
/-! The bank that MSTAT.SEC_REG does not select (`10_state.md` R25). Most operations keep it together with MSTAT, and so
compose. Those that write MSTAT write no register of either bank, and stand last in their instruction. -/

namespace Sys2Proof.Machine

open Claims

/-- MSTAT and the bank that it does not select. -/
def modesAndOther (s : State) : BitVec 7 × Bank := (s.mstat, otherBank s)

/-- The bank of `t` that the modes of `s` do not select. -/
def otherBankIn (s t : State) : Bank := if secReg s then t.primary else t.secondary

/-- An operation that keeps MSTAT and the other bank keeps the bank that was not selected before it. -/
theorem otherBankIn_of_eq {s t : State} (h : modesAndOther t = modesAndOther s) : otherBankIn s t = otherBank s := by
  obtain ⟨hmode, hother⟩ := Prod.mk.inj h
  have hsec : secReg s = secReg t := by rw [secReg, secReg, hmode]
  rw [← hother, otherBankIn, hsec, otherBank]

/-- States with the same modes look at the same bank. -/
theorem otherBankIn_congr {s u : State} (t : State) (h : modesAndOther u = modesAndOther s) :
    otherBankIn s t = otherBankIn u t := by
  obtain ⟨hmode, -⟩ := Prod.mk.inj h
  rw [otherBankIn, otherBankIn, secReg, secReg, hmode]

/-! The operations that always succeed. -/

@[simp] theorem modesAndOther_setBank (b : Bank) (s : State) : modesAndOther (setBank b s) = modesAndOther s := by
  simp [modesAndOther]
@[simp] theorem modesAndOther_setAstat (v : BitVec 8) (s : State) :
    modesAndOther (setAstat v s) = modesAndOther s := rfl
@[simp] theorem modesAndOther_setPx (v : BitVec 8) (s : State) : modesAndOther (setPx v s) = modesAndOther s := rfl
@[simp] theorem modesAndOther_countDraw (s : State) : modesAndOther (countDraw s) = modesAndOther s := rfl
@[simp] theorem modesAndOther_transferTo (a : Addr) (s : State) :
    modesAndOther (transferTo a s) = modesAndOther s := rfl
@[simp] theorem modesAndOther_afterCond (c : Cond) (s : State) : modesAndOther (afterCond c s) = modesAndOther s := by
  unfold afterCond; split <;> rfl
@[simp] theorem modesAndOther_postModify (a b : DagIdx) (s : State) :
    modesAndOther (postModify a b s) = modesAndOther s := by
  rw [postModify_eq]; split <;> rfl
@[simp] theorem modesAndOther_writeDreg (d : DReg) (v : Word) (s : State) :
    modesAndOther (writeDreg d v s) = modesAndOther s :=
  modesAndOther_setBank _ s
@[simp] theorem modesAndOther_aluStep (f : AluFn) (z : Dest) (x y : Word) (s : State) :
    modesAndOther (aluStep f z x y s) = modesAndOther s := by
  cases z with
  | feedback => simp [aluStep, writeAlu]
  | result => simp only [aluStep, writeAlu]; split <;> simp
@[simp] theorem modesAndOther_passConstStep (z : Dest) (v : Word) (s : State) :
    modesAndOther (passConstStep z v s) = modesAndOther s := by
  cases z <;> simp [passConstStep]
@[simp] theorem modesAndOther_writeDiv (o : DivOut) (s : State) : modesAndOther (writeDiv o s) = modesAndOther s := by
  simp [writeDiv]
@[simp] theorem modesAndOther_macOp (f : MacFn) (z : Dest) (x y : Word) (s : State) :
    modesAndOther (macOp f z x y s) = modesAndOther s := by
  cases z <;> simp [macOp, writeMac]
@[simp] theorem modesAndOther_writeSr (o : Bool) (v : BitVec 32) (s : State) :
    modesAndOther (writeSr o v s) = modesAndOther s := by
  simp [writeSr]
@[simp] theorem modesAndOther_shiftOp (f : ShiftFn) (x : Word) (s : State) :
    modesAndOther (shiftOp f x s) = modesAndOther s := by
  cases f with
  | expHix => simp only [shiftOp, expHix]; split <;> simp [expHi, writeExp]
  | expadj => simp only [shiftOp, expAdj]; split <;> simp
  | _ => simp [shiftOp, expHi, expLo, writeExp]
@[simp] theorem modesAndOther_computeOp (z : Dest) (op : AluMac) (s : State) :
    modesAndOther (computeOp z op s) = modesAndOther s := by
  cases op <;> simp [computeOp]
@[simp] theorem modesAndOther_computeShift (f : ShiftFn) (x : ShiftXop) (s : State) :
    modesAndOther (computeShift f x s) = modesAndOther s :=
  modesAndOther_shiftOp f _ s
@[simp] theorem modesAndOther_drivePins (fl2 fl1 fl0 fo : PinOp) (s : State) :
    modesAndOther (drivePins fl2 fl1 fl0 fo s) = modesAndOther s := by
  rw [drivePins_eq]; rfl

/-! The reads, and the writes to memory. -/

theorem readDm_modesAndOther {a : Addr} {s t : State} {v : Word} (h : readDm a s = .ok (v, t)) :
    modesAndOther t = modesAndOther s := by
  obtain ⟨-, -, rfl⟩ | ⟨-, -, rfl⟩ := readDm_eq_ok.mp h <;> rfl

theorem readPm_modesAndOther {a : Addr} {s t : State} {p : PmWord} (h : readPm a s = .ok (p, t)) :
    modesAndOther t = modesAndOther s := by
  obtain ⟨-, -, rfl⟩ | ⟨-, -, rfl⟩ := readPm_eq_ok.mp h <;> rfl

theorem readIoSpace_modesAndOther {a : IoAddr} {s t : State} {v : Word} (h : readIoSpace a s = .ok (v, t)) :
    modesAndOther t = modesAndOther s := by
  obtain ⟨-, -, rfl⟩ := readIoSpace_eq_ok.mp h
  rfl

theorem readReg_modesAndOther {w : PmWord} {r : Reg} {s t : State} {v : Word} (h : readReg w r s = .ok (v, t)) :
    modesAndOther t = modesAndOther s := by
  cases r with
  | ifc | owrcntr => simp [readReg] at h
  | _ => cases h; rfl

theorem writeDm_modesAndOther {a : Addr} {v : Word} {s t : State} (h : writeDm a v s = .ok t) :
    modesAndOther t = modesAndOther s := by
  obtain ⟨-, rfl⟩ | ⟨-, rfl⟩ := writeDm_eq_ok.mp h <;> rfl

theorem writePm_modesAndOther {a : Addr} {p : PmWord} {s t : State} (h : writePm a p s = .ok t) :
    modesAndOther t = modesAndOther s := by
  obtain ⟨-, rfl⟩ | ⟨-, rfl⟩ := writePm_eq_ok.mp h <;> rfl

theorem writeIoSpace_modesAndOther {a : IoAddr} {v : Word} {s t : State} (h : writeIoSpace a v s = .ok t) :
    modesAndOther t = modesAndOther s := by
  obtain ⟨-, rfl⟩ := writeIoSpace_eq_ok.mp h
  rfl

theorem pushPc_modesAndOther {a : Addr} {s t : State} (h : pushPc a s = .ok t) :
    modesAndOther t = modesAndOther s := by
  obtain ⟨-, rfl⟩ := pushPc_eq_ok.mp h
  rfl

/-! Answers. -/

/-- Where `r` answers a next state, the bank that `s` does not select is what it is in `s`. -/
def KeepsOther (s : State) (r : Answer) : Prop := ∀ t, r = .next t → otherBankIn s t = otherBank s

theorem keepsOther_next {s t : State} (h : modesAndOther t = modesAndOther s) : KeepsOther s (.next t) := by
  rintro u hu
  cases hu
  exact otherBankIn_of_eq h

theorem keepsOther_fault (s : State) (f : Fault) : KeepsOther s (.fault f) := by
  rintro t ⟨⟩

theorem keepsOther_ite {s : State} {p : Prop} [Decidable p] {r q : Answer} (hr : KeepsOther s r)
    (hq : KeepsOther s q) : KeepsOther s (if p then r else q) := by
  split
  · exact hr
  · exact hq

/-- An instruction of some members of the family, or on some registers, and a fault elsewhere. -/
theorem keepsOther_if {s : State} {p : Prop} [Decidable p] {r : Answer} {f : Fault} (hr : KeepsOther s r) :
    KeepsOther s (if p then r else .fault f) :=
  keepsOther_ite hr (keepsOther_fault s f)

/-- An answer that goes on from a state with the same modes and the same other bank. -/
theorem KeepsOther.of_eq {s u : State} {r : Answer} (h : KeepsOther u r) (hu : modesAndOther u = modesAndOther s) :
    KeepsOther s r := fun t ht =>
  (otherBankIn_congr t hu).trans ((h t ht).trans (Prod.mk.inj hu).2)

/-- An operation that keeps the modes and the other bank. -/
theorem keepsOther_answer {s : State} {x : Result State} (h : ∀ t, x = .ok t → modesAndOther t = modesAndOther s) :
    KeepsOther s (answer x) :=
  fun t ht => otherBankIn_of_eq (h t (answer_eq_next.mp ht))

/-- A read, and what is done with the value and the state it gives. -/
theorem keepsOther_read {α : Type} {s : State} {x : Result (α × State)} {f : α × State → Result State}
    (hx : ∀ v u, x = .ok (v, u) → modesAndOther u = modesAndOther s) (hf : ∀ v u, KeepsOther u (answer (f (v, u)))) :
    KeepsOther s (answer (x >>= f)) := by
  intro t ht
  obtain ⟨⟨v, u⟩, hu, ht⟩ := result_bind_eq_ok.mp (answer_eq_next.mp ht)
  exact (hf v u).of_eq (hx v u hu) t (answer_eq_next.mpr ht)

/-- An operation that keeps the modes and the other bank, before another. -/
theorem keepsOther_seq {s : State} {x : Result State} {f : State → Result State}
    (hx : ∀ u, x = .ok u → modesAndOther u = modesAndOther s) (hf : ∀ u, KeepsOther u (answer (f u))) :
    KeepsOther s (answer (x >>= f)) := by
  intro t ht
  obtain ⟨u, hu, ht⟩ := result_bind_eq_ok.mp (answer_eq_next.mp ht)
  exact (hf u).of_eq (hx u hu) t (answer_eq_next.mpr ht)

/-- An operation behind a test or a value that does not change the state. -/
theorem keepsOther_after {α : Type} {s : State} {x : Result α} {f : α → Result State}
    (hf : ∀ v, KeepsOther s (answer (f v))) : KeepsOther s (answer (x >>= f)) := by
  intro t ht
  obtain ⟨v, -, ht⟩ := result_bind_eq_ok.mp (answer_eq_next.mp ht)
  exact hf v t (answer_eq_next.mpr ht)

theorem keepsOther_ifCond {c : Cond} {op : State → Result State} (h : ∀ u, KeepsOther u (answer (op u)))
    (s : State) : KeepsOther s (answer (ifCond c op s)) := by
  intro t ht
  obtain ⟨-, ht⟩ | ⟨-, rfl⟩ := ifCond_eq_ok.mp (answer_eq_next.mp ht)
  · exact (h _).of_eq (modesAndOther_afterCond c s) t (answer_eq_next.mpr ht)
  · exact otherBankIn_of_eq (modesAndOther_afterCond c s)

/-- A conditional operation that always succeeds. -/
theorem keepsOther_ifCond_ok {c : Cond} {f : State → State} (h : ∀ u, modesAndOther (f u) = modesAndOther u)
    (s : State) : KeepsOther s (answer (ifCond c (fun u => .ok (f u)) s)) :=
  keepsOther_ifCond (op := fun u => .ok (f u)) (fun u => keepsOther_next (h u)) s

theorem keepsOther_unlessClash {w : PmWord} {clash : Bool} {s : State} {r : Result State}
    (h : KeepsOther s (answer r)) : KeepsOther s (answer (unlessClash w clash r)) :=
  fun t ht => h t (answer_eq_next.mpr (unlessClash_eq_ok.mp (answer_eq_next.mp ht)).2)

/-! The operations that may write MSTAT: they write neither bank. -/

/-- Both register banks. -/
def banks (s : State) : Bank × Bank := (s.primary, s.secondary)

theorem SequencerOnly.banks_eq {t u : State} (h : SequencerOnly t u) : banks u = banks t := by
  unfold SequencerOnly at h
  rw [h]
  rfl

theorem otherBankIn_of_banks {s t u : State} (h : banks u = banks t) : otherBankIn s u = otherBankIn s t := by
  obtain ⟨hprimary, hsecondary⟩ := Prod.mk.inj h
  rw [otherBankIn, otherBankIn, hprimary, hsecondary]

/-- Where `op` answers a state, it has left both banks alone. -/
def KeepsBanks (op : State → Result State) : Prop := ∀ s t, op s = .ok t → banks t = banks s

theorem KeepsBanks.keepsOther {op : State → Result State} (h : KeepsBanks op) (s : State) :
    KeepsOther s (answer (op s)) :=
  fun t ht => otherBankIn_of_banks (h s t (answer_eq_next.mp ht))

theorem KeepsBanks.seq {x f : State → Result State} (hx : KeepsBanks x) (hf : KeepsBanks f) :
    KeepsBanks fun s => x s >>= f := by
  intro s t ht
  obtain ⟨u, hu, ht⟩ := result_bind_eq_ok.mp ht
  exact (hf u t ht).trans (hx s u hu)

theorem KeepsBanks.optionally {b : Bool} {op : State → Result State} (h : KeepsBanks op) :
    KeepsBanks (optionally b op) := by
  cases b with
  | false => rintro s t ⟨⟩; rfl
  | true => exact h

theorem stsAction_keepsBanks (sp : StsOp) : KeepsBanks (stsAction sp) := by
  intro s t h
  cases sp with
  | keep | keepAlt => cases h; rfl
  | push => obtain ⟨-, rfl⟩ := pushSts_eq_ok.mp h; rfl
  | pop => obtain ⟨e, rest, -, rfl⟩ := popSts_eq_ok.mp h; rfl

theorem popCntr_keepsBanks : KeepsBanks popCntr := by
  intro s t h
  obtain ⟨v, rest, -, rfl⟩ := popCntr_eq_ok.mp h
  rfl

theorem dropPc_keepsBanks : KeepsBanks dropPc := by
  intro s t h
  obtain ⟨-, -, h⟩ := result_bind_eq_ok.mp h
  obtain ⟨⟨a, u⟩, hu, h⟩ := result_bind_eq_ok.mp h
  cases h
  exact (popPc_sequencerOnly hu).banks_eq

theorem dropLoop_keepsBanks : KeepsBanks dropLoop := by
  intro s t h
  obtain ⟨⟨e, u⟩, hu, h⟩ := result_bind_eq_ok.mp h
  cases h
  exact (popLoop_sequencerOnly hu).banks_eq

theorem controlStacks_keepsBanks (pp lp cp : Bool) (sp : StsOp) : KeepsBanks (controlStacks pp lp cp sp) :=
  (stsAction_keepsBanks sp).seq <| popCntr_keepsBanks.optionally.seq <|
    dropPc_keepsBanks.optionally.seq dropLoop_keepsBanks.optionally

theorem returnFromInterrupt_keepsBanks : KeepsBanks returnFromInterrupt := by
  intro s t h
  obtain ⟨-, a, rest, e, rest', -, -, rfl⟩ := returnFromInterrupt_eq_ok.mp h
  rfl

theorem returnFromSub_keepsBanks : KeepsBanks returnFromSub := by
  intro s t h
  obtain ⟨-, a, rest, -, rfl⟩ := returnFromSub_eq_ok.mp h
  rfl

theorem enterLoop_keepsOther (a : Addr) (term : Term) (s : State) : KeepsOther s (answer (enterLoop a term s)) := by
  refine keepsOther_after fun _ t ht => ?_
  dsimp only at ht
  split at ht
  · cases ht; rfl
  · split at ht
    · cases ht
    · cases ht; rfl

theorem callTo_keepsOther (a : Addr) (s : State) : KeepsOther s (answer (callTo a s)) :=
  keepsOther_after fun _ => keepsOther_seq (fun _ => pushPc_modesAndOther) fun _ => keepsOther_next rfl

/-- A register of the active bank keeps the modes; a write of MSTAT keeps both banks; the others keep all of these. -/
theorem writeReg_keepsOther (w : PmWord) (d : Reg) (v : Word) (s : State) :
    KeepsOther s (answer (writeReg w d v s)) := by
  intro t h
  rw [answer_eq_next] at h
  cases d with
  | sstat => simp [writeReg] at h
  | cntr => obtain ⟨-, -, rfl⟩ | ⟨-, rfl⟩ := loadCntr_eq_ok.mp h <;> rfl
  | dreg d => cases h; exact otherBankIn_of_eq (modesAndOther_writeDreg d v s)
  | sb => cases h; exact otherBankIn_of_eq (modesAndOther_setBank _ s)
  | _ => cases h; rfl

/-! The moves, alone and beside a computation. -/

theorem topToReg_keepsOther (w : PmWord) (d : Reg) (s : State) : KeepsOther s (answer (topToReg w d s)) := by
  refine keepsOther_after fun _ => keepsOther_after fun a t ht => ?_
  obtain ⟨u, hu, ht⟩ := result_bind_eq_ok.mp (answer_eq_next.mp ht)
  cases ht
  exact writeReg_keepsOther w d _ s u (answer_eq_next.mpr hu)

theorem regToTop_keepsOther (w : PmWord) (r : Reg) (s : State) : KeepsOther s (answer (regToTop w r s)) :=
  keepsOther_after fun _ => keepsOther_read (fun _ _ => readReg_modesAndOther) fun _ _ =>
    keepsOther_answer fun _ => pushPc_modesAndOther

theorem regToReg_keepsOther (w : PmWord) (d r : Reg) (s : State) : KeepsOther s (answer (regToReg w d r s)) :=
  keepsOther_read (fun _ _ => readReg_modesAndOther) fun v u => writeReg_keepsOther w d v u

theorem dmToReg_keepsOther (w : PmWord) (a : Addr) (d : Reg) (s : State) :
    KeepsOther s (answer (dmToReg w a d s)) :=
  keepsOther_read (fun _ _ => readDm_modesAndOther) fun v u => writeReg_keepsOther w d v u

theorem regToDm_keepsOther (w : PmWord) (a : Addr) (r : Reg) (s : State) :
    KeepsOther s (answer (regToDm w a r s)) :=
  keepsOther_read (fun _ _ => readReg_modesAndOther) fun _ _ => keepsOther_answer fun _ => writeDm_modesAndOther

theorem ioToDreg_keepsOther (a : IoAddr) (d : DReg) (s : State) : KeepsOther s (answer (ioToDreg a d s)) :=
  keepsOther_read (fun _ _ => readIoSpace_modesAndOther) fun v u => keepsOther_next (modesAndOther_writeDreg d v u)

section
variable {compute : State → State} (hc : ∀ s, modesAndOther (compute s) = modesAndOther s)
include hc

theorem loadDmInd_keepsOther (d : DReg) (a b : DagIdx) (s : State) :
    KeepsOther s (answer (loadDmInd compute d a b s)) :=
  keepsOther_read (fun _ _ => readDm_modesAndOther) fun _ _ => keepsOther_next (by simp [hc])

theorem loadPmInd_keepsOther (d : DReg) (a b : DagIdx) (s : State) :
    KeepsOther s (answer (loadPmInd compute d a b s)) :=
  keepsOther_read (fun _ _ => readPm_modesAndOther) fun _ _ => keepsOther_next (by simp [hc])

theorem storeDmInd_keepsOther (v : Word) (a b : DagIdx) (s : State) :
    KeepsOther s (answer (storeDmInd compute v a b s)) :=
  keepsOther_seq (fun _ => writeDm_modesAndOther) fun _ => keepsOther_next (by simp [hc])

theorem storePmInd_keepsOther (v : Word) (a b : DagIdx) (s : State) :
    KeepsOther s (answer (storePmInd compute v a b s)) :=
  keepsOther_seq (fun _ => writePm_modesAndOther) fun _ => keepsOther_next (by simp [hc])

theorem dualLoad_keepsOther (pd : PmDest) (dd : DmDest) (ap bp ad bd : DagIdx) (s : State) :
    KeepsOther s (answer (dualLoad compute pd dd ap bp ad bd s)) :=
  keepsOther_read (fun _ _ => readPm_modesAndOther) fun _ _ =>
    keepsOther_read (fun _ _ => readDm_modesAndOther) fun _ _ => keepsOther_next (by simp [hc])

theorem modesAndOther_moveBeside (d r : DReg) (s : State) :
    modesAndOther (moveBeside compute d r s) = modesAndOther s := by
  simp [moveBeside, hc]

end

/-! The instructions. -/

theorem execCompMove_keepsOther (z : Dest) (op : Option AluMac) (d r : DReg) (s : State) :
    KeepsOther s (execCompMove z op d r s) := by
  cases op with
  | none => exact keepsOther_if (keepsOther_next (modesAndOther_moveBeside (fun _ => rfl) d r s))
  | some op =>
    exact keepsOther_unlessClash (keepsOther_next (modesAndOther_moveBeside (modesAndOther_computeOp z op) d r s))

/-- No instruction writes a register of the bank that is not selected when it begins. -/
theorem exec_keepsOther (i : Instr) (s : State) : KeepsOther s (exec i s) := by
  cases i with
  | aluPassY | aluIncY | aluAddC | aluAdd | aluNotY | aluNegY | aluSubXYBorrow | aluSubXY | aluDecY | aluSubYX
  | aluSubYXBorrow | aluNotX | aluAnd | aluOr | aluXor | aluAbs =>
    exact keepsOther_ifCond_ok (fun u => modesAndOther_aluStep _ _ _ _ u) s
  | aluAddK | aluAddKC | aluSubXK | aluSubXKBorrow | aluSubKX | aluSubKXBorrow | aluTstbit | aluClrbit | aluSetbit
  | aluOrNotBit | aluTglbit | aluXorNotBit | aluNotK | aluNegK | aluNotXK | aluAbsK =>
    exact keepsOther_if (keepsOther_ifCond_ok (fun u => modesAndOther_aluStep _ _ _ _ u) s)
  | aluPassK | aluPassKInc | aluPassKDec =>
    exact keepsOther_if (keepsOther_ifCond_ok (modesAndOther_passConstStep _ _) s)
  | divs | divq => exact keepsOther_next (modesAndOther_writeDiv _ s)
  | noneAlu => exact keepsOther_if (keepsOther_next (modesAndOther_setAstat _ s))
  | macMulRnd | macMulSs | macMulSu | macMulUs | macMulUu | macAddRnd | macAddSs | macAddSu | macAddUs | macAddUu
  | macSubRnd | macSubSs | macSubSu | macSubUs | macSubUu =>
    exact keepsOther_ifCond_ok (fun u => modesAndOther_macOp _ _ _ _ u) s
  | macSqrMulRnd | macSqrMulSs | macSqrMulUu | macSqrAddRnd | macSqrAddSs | macSqrAddUu | macSqrSubRnd | macSqrSubSs
  | macSqrSubUu => exact keepsOther_if (keepsOther_ifCond_ok (fun u => modesAndOther_macOp _ _ _ _ u) s)
  | satMr => exact keepsOther_ite (keepsOther_next (modesAndOther_setBank _ s)) (keepsOther_next rfl)
  | lshiftHi | lshiftHiOr | lshiftLo | lshiftLoOr | ashiftHi | ashiftHiOr | ashiftLo | ashiftLoOr | normHi | normHiOr
  | normLo | normLoOr | expHi | expHix | expLo | expadj =>
    exact keepsOther_ifCond_ok (fun u => modesAndOther_shiftOp _ _ u) s
  | lshiftImmHi | lshiftImmHiOr | lshiftImmLo | lshiftImmLoOr | ashiftImmHi | ashiftImmHiOr | ashiftImmLo
  | ashiftImmLoOr => exact keepsOther_next (modesAndOther_writeSr _ _ s)
  | moveFromTop d => exact keepsOther_if (topToReg_keepsOther _ d s)
  | moveToTop r => exact keepsOther_if (regToTop_keepsOther _ r s)
  | moveReg d r => exact regToReg_keepsOther _ d r s
  | loadDreg v d => exact keepsOther_next (modesAndOther_writeDreg d v s)
  | loadReg v d => exact keepsOther_ite (keepsOther_fault s _) (writeReg_keepsOther _ d _ s)
  | readDm a d => exact dmToReg_keepsOther _ a d s
  | writeDm a r => exact regToDm_keepsOther _ a r s
  | readDmInd => exact loadDmInd_keepsOther (fun _ => rfl) _ _ _ s
  | writeDmInd | writeDmImm => exact storeDmInd_keepsOther (fun _ => rfl) _ _ _ s
  | readPmInd => exact loadPmInd_keepsOther (fun _ => rfl) _ _ _ s
  | writePmInd => exact storePmInd_keepsOther (fun _ => rfl) _ _ _ s
  | readIo a d => exact keepsOther_if (ioToDreg_keepsOther a d s)
  | writeIo => exact keepsOther_if (keepsOther_answer fun _ => writeIoSpace_modesAndOther)
  | jump | jumpInd => exact keepsOther_ifCond_ok (fun u => modesAndOther_transferTo _ u) s
  | call | callInd => exact keepsOther_ifCond (fun u => callTo_keepsOther _ u) s
  | jumpFlag => exact keepsOther_ite (keepsOther_next rfl) (keepsOther_next rfl)
  | callFlag a => exact keepsOther_ite (callTo_keepsOther a s) (keepsOther_next rfl)
  | flagOut =>
    exact keepsOther_ite (keepsOther_fault s _) (keepsOther_ifCond_ok (modesAndOther_drivePins _ _ _ _) s)
  | rts => exact keepsOther_ifCond returnFromSub_keepsBanks.keepsOther s
  | rti => exact keepsOther_ifCond returnFromInterrupt_keepsBanks.keepsOther s
  | doUntil a term => exact enterLoop_keepsOther a term s
  | stackControl pp lp cp sp => exact (controlStacks_keepsBanks pp lp cp sp).keepsOther s
  | enaInts | disInts => exact keepsOther_if (keepsOther_next rfl)
  | modeControl => rintro t ⟨⟩; rfl
  | modify => exact keepsOther_next (modesAndOther_postModify _ _ s)
  | idle | idleN | nop => exact keepsOther_next rfl
  | compReadDm => exact keepsOther_unlessClash (loadDmInd_keepsOther (modesAndOther_computeOp _ _) _ _ _ s)
  | compReadPm => exact keepsOther_unlessClash (loadPmInd_keepsOther (modesAndOther_computeOp _ _) _ _ _ s)
  | shiftReadDm => exact keepsOther_unlessClash (loadDmInd_keepsOther (modesAndOther_computeShift _ _) _ _ _ s)
  | shiftReadPm => exact keepsOther_unlessClash (loadPmInd_keepsOther (modesAndOther_computeShift _ _) _ _ _ s)
  | compMove z op d r => exact execCompMove_keepsOther z op d r s
  | shiftMove =>
    exact keepsOther_unlessClash
      (keepsOther_next (modesAndOther_moveBeside (modesAndOther_computeShift _ _) _ _ s))
  | compWriteDm => exact storeDmInd_keepsOther (modesAndOther_computeOp _ _) _ _ _ s
  | compWritePm => exact storePmInd_keepsOther (modesAndOther_computeOp _ _) _ _ _ s
  | shiftWriteDm => exact storeDmInd_keepsOther (modesAndOther_computeShift _ _) _ _ _ s
  | shiftWritePm => exact storePmInd_keepsOther (modesAndOther_computeShift _ _) _ _ _ s
  | dualRead => exact dualLoad_keepsOther (fun _ => rfl) _ _ _ _ _ _ s
  | compDualRead => exact dualLoad_keepsOther (modesAndOther_computeOp .result _) _ _ _ _ _ _ s
  | unused => exact keepsOther_fault s _

/-! The step (R335). -/

/-- What comes before the instruction keeps the modes and both banks, what comes after it both banks. -/
theorem runInstr_keepsOther (i : Instr) (s : State) : KeepsOther s (runInstr i s) := by
  intro t h
  obtain ⟨-, u, hexec, hend⟩ := runInstr_eq_next h
  have hbegin : modesAndOther (beginInstr s) = modesAndOther s := by rw [beginInstr_frame]; rfl
  rw [otherBankIn_of_banks (completeInstr_sequencerOnly hend).banks_eq]
  exact (exec_keepsOther i (beginInstr s)).of_eq hbegin u hexec

theorem runNext_keepsOther (s : State) : KeepsOther s (runNext s) := by
  unfold runNext
  split
  · exact keepsOther_fault s _
  · next w t hfetch =>
    have ht : modesAndOther t = modesAndOther s := by rw [fetch_frame hfetch]; rfl
    split
    · exact keepsOther_fault s _
    · exact (runInstr_keepsOther _ t).of_eq ht

theorem step_keepsOther (s : State) : KeepsOther s (step s) := by
  unfold step
  split
  · exact keepsOther_fault s _
  · next t hdispatch =>
    have ht : modesAndOther t = modesAndOther s := by rw [dispatchInterrupt_frame hdispatch]; rfl
    split
    · exact keepsOther_next ht
    · exact (runNext_keepsOther t).of_eq ht

/-- Settles O56: the bank is looked at as the modes before the step select it. -/
theorem inactiveBankKept : Obligations.InactiveBankKept := fun s t h => step_keepsOther s t h

end Sys2Proof.Machine
end
